-- ==== Sys2Proof/Word.lean ====
section
/-! DEFINITION. The one word of the block: a byte (spec 00_scope.md R8: every value is an unsigned integer of a stated width). -/

namespace Sys2Proof

/-- `u8` of R8: an 8-bit unsigned value; `+` and `-` on it are `+8` and `-8` of R8. -/
abbrev Byte := BitVec 8

end Sys2Proof
end

