-- ==== Sys2Proof/Config.lean ====
section
/-! DEFINITION. What an implementation fixes, and the free values (00_scope.md R7, 20_memory.md R62). A constant without a body stands for any value: no proof can see which. -/

namespace Sys2Proof.Config

/-- `NODATA_THRESHOLD` of R7, `OPEN`: "a natural number, the large fixed threshold of empty polls; no value given" (U1, D7). -/
opaque nodataThreshold : Nat

/-- How many bits `NODATA_CNT_W` has beyond the fewest that hold `NODATA_THRESHOLD + 1` (R7, D8: any such width). -/
opaque nodataSpareBits : Nat

/-- `NODATA_CNT_W` of R7: a width that holds `NODATA_THRESHOLD + 1` (D8). -/
def nodataWidth : Nat := Nat.log2 (nodataThreshold + 1) + 1 + nodataSpareBits

/-- The value at which the no-data counter saturates: `2^NODATA_CNT_W - 1` (R121, D8). -/
def nodataMax : Nat := 2 ^ nodataWidth - 1

/-- The transport's answer to a poll for which State lists none, by the number of such polls so far: R62 "a free draw of
the environment, under no law" (log entry 2). `none` is the answer NONE, `some b` is BYTE(b). -/
opaque freeAnswer : Nat → Option Byte

end Sys2Proof.Config
end

