-- ==== Sys2Proof/Syntax.lean ====
section
/-! DEFINITION. The protocol states, the events that reach the block, and its instructions: one constructor of `Instr` for each row of spec/opcode_table.json (30_encoding.md R71, R75, R82). -/

namespace Sys2Proof

/-- The protocol state `st` (10_state.md R23, in its order); `reserved` is the code 7. -/
inductive PState where
  | idle
  | awaitStart
  | sohSeen
  | seqSeen
  | compSeqSeen
  | accumulatingData
  | awaitChecksum
  | reserved
deriving DecidableEq, Repr

/-- A poll's answer (20_memory.md R62): `none` is NONE, `some b` is BYTE(b). -/
abbrev Answer := Option Byte

/-- What reaches the block in one step (00_scope.md R6): a command on the command port with the handle on `cmd_buf`
(30_encoding.md R70, R71), or a poll's answer in the current protocol state (R75). -/
inductive Event where
  | cmd (code : BitVec 2) (buf : Nat)
  | poll (st : PState) (a : Answer)
deriving DecidableEq, Repr

/-- The instructions: the four host commands and the ten receive events of the opcode map (R82). The operands are what
the rules of 40_commands.md and 41_receive_fsm.md give each. -/
inductive Instr where
  /-- `INIT` (R100). -/
  | init
  /-- `START` (R101). -/
  | start
  /-- `ACK` (R102). -/
  | ack
  /-- `RECV` with the caller's buffer (R103). -/
  | recv (buf : Nat)
  /-- `RX_NONE`: an empty poll (R121). -/
  | rxNone
  /-- `RX_SOH`: byte 01 in AwaitStart (R123). -/
  | rxSoh
  /-- `RX_EOT`: byte 04 in AwaitStart (R124). -/
  | rxEot
  /-- `RX_IGNORE`: any other byte in AwaitStart (R125). -/
  | rxIgnore (b : Byte)
  /-- `RX_SEQ`: the sequence byte (R126). -/
  | rxSeq (b : Byte)
  /-- `RX_COMP`: the complement byte (R127). -/
  | rxComp (b : Byte)
  /-- `RX_D0`: payload byte 0 (R128). -/
  | rxD0 (b : Byte)
  /-- `RX_DATA`: payload bytes 1 to 127 (R129). -/
  | rxData (b : Byte)
  /-- `RX_CKS`: the checksum byte (R130). -/
  | rxCks (b : Byte)
  /-- `RX_ILLEGAL`: a poll in Idle or 7, either answer (R122). -/
  | rxIllegal (a : Answer)
deriving DecidableEq, Repr

end Sys2Proof
end

