-- ==== Sys2Proof/WellFormed.lean ====
section
/-! DEFINITION. Which instructions the encoding can express. The one restriction on operands is that of `RX_IGNORE`, whose byte is neither of the two its row excludes (30_encoding.md R75, R82). -/

namespace Sys2Proof

/-- The operands are ones the decode table gives the instruction (R75): `RX_IGNORE` never carries 01 or 04. -/
def Instr.wellFormed : Instr → Bool
  | .init => true
  | .start => true
  | .ack => true
  | .recv _ => true
  | .rxNone => true
  | .rxSoh => true
  | .rxEot => true
  | .rxIgnore b => !(b == 0x01#8) && !(b == 0x04#8)
  | .rxSeq _ => true
  | .rxComp _ => true
  | .rxD0 _ => true
  | .rxData _ => true
  | .rxCks _ => true
  | .rxIllegal _ => true

end Sys2Proof
end

