-- ==== Sys2Proof/Decode.lean ====
section
/-! DEFINITION. The fixed byte values, the state codes, the decoder and the encoder (30_encoding.md). The block's own decode (R71, R75) is of events: it is complete and rejects nothing (R77). Around it stands the model's layout of an event in two bytes (log entry 11), which rejects by name the words it gives no event. -/

namespace Sys2Proof

/-- SOH of R73. -/
def soh : Byte := 0x01#8
/-- EOT of R73. -/
def eot : Byte := 0x04#8
/-- ACK of R73. -/
def ackByte : Byte := 0x06#8
/-- NAK of R73. -/
def nakByte : Byte := 0x15#8

/-- The code of a protocol state (10_state.md R23, 30_encoding.md R79). -/
def PState.toBits : PState → BitVec 3
  | .idle => 0#3
  | .awaitStart => 1#3
  | .sohSeen => 2#3
  | .seqSeen => 3#3
  | .compSeqSeen => 4#3
  | .accumulatingData => 5#3
  | .awaitChecksum => 6#3
  | .reserved => 7#3

/-- The protocol state of a code (R23, R79); 7 is reserved. -/
def PState.ofBits (v : BitVec 3) : PState :=
  if v = 0#3 then .idle
  else if v = 1#3 then .awaitStart
  else if v = 2#3 then .sohSeen
  else if v = 3#3 then .seqSeen
  else if v = 4#3 then .compSeqSeen
  else if v = 5#3 then .accumulatingData
  else if v = 6#3 then .awaitChecksum
  else .reserved

/-- A command by its `cmd_code` (R71: all four codes are used); `RECV` takes the handle on `cmd_buf`. -/
def decodeCmd (code : BitVec 2) (buf : Nat) : Instr :=
  if code = 0b00#2 then .init
  else if code = 0b01#2 then .start
  else if code = 0b10#2 then .ack
  else .recv buf

/-- A byte polled in `AwaitStart` (R75): SOH and EOT have priority over `RX_IGNORE` (R82). -/
def decodeStartByte (b : Byte) : Instr :=
  if b = soh then .rxSoh else if b = eot then .rxEot else .rxIgnore b

/-- A poll's answer in the current state: the complete table of R75. In `Idle` and 7 either answer is `RX_ILLEGAL`
(R122; DEDUCED, log entry 9). -/
def decodePoll : PState → Answer → Instr
  | .idle, a => .rxIllegal a
  | .reserved, a => .rxIllegal a
  | .awaitStart, none => .rxNone
  | .awaitStart, some b => decodeStartByte b
  | .sohSeen, none => .rxNone
  | .sohSeen, some b => .rxSeq b
  | .seqSeen, none => .rxNone
  | .seqSeen, some b => .rxComp b
  | .compSeqSeen, none => .rxNone
  | .compSeqSeen, some b => .rxD0 b
  | .accumulatingData, none => .rxNone
  | .accumulatingData, some b => .rxData b
  | .awaitChecksum, none => .rxNone
  | .awaitChecksum, some b => .rxCks b

/-- The instruction an event selects (R71, R75); total, since the block reserves no command and no answer (R77). -/
def decode : Event → Instr
  | .cmd code buf => decodeCmd code buf
  | .poll st a => decodePoll st a

/-- An event that selects the instruction: the command's code, or the row's state and byte (R71, R75). -/
def encode : Instr → Event
  | .init => .cmd 0b00#2 0
  | .start => .cmd 0b01#2 0
  | .ack => .cmd 0b10#2 0
  | .recv buf => .cmd 0b11#2 buf
  | .rxNone => .poll .awaitStart none
  | .rxSoh => .poll .awaitStart (some soh)
  | .rxEot => .poll .awaitStart (some eot)
  | .rxIgnore b => .poll .awaitStart (some b)
  | .rxSeq b => .poll .sohSeen (some b)
  | .rxComp b => .poll .seqSeen (some b)
  | .rxD0 b => .poll .compSeqSeen (some b)
  | .rxData b => .poll .accumulatingData (some b)
  | .rxCks b => .poll .awaitChecksum (some b)
  | .rxIllegal a => .poll .idle a

/-- Why two bytes are no event of the model's layout (log entry 11). -/
inductive DecodeError where
  /-- Fewer than two bytes. -/
  | truncated
  /-- A selector byte the layout does not use. -/
  | unknownSelector
  /-- An empty poll with a data byte that is not zero. -/
  | strayByte
deriving DecidableEq, Repr

/-- The first byte alone, as spec/opcode_table.json numbers it (bits 1..0 `cmd_code`, bits 7..0 the polled byte): 0 to 3
are the commands, any other value a byte polled in `AwaitStart` (DESIGN CHOICE, log entry 11: the table gives a row
neither its port nor its state as bits, R82). -/
def tableEvent (d : Byte) (buf : Nat) : Event :=
  if d.toNat < 4 then .cmd (d.setWidth 2) buf else .poll .awaitStart (some d)

/-- The model's two-byte layout of an event (log entry 11): the data byte, then a selector: 0 the table's bare byte,
`00010sss` a byte polled in state `sss`, `00100sss` an empty poll in state `sss`. `buf` is what stands on `cmd_buf`. -/
def eventOfBytes (buf : Nat) : List Byte → Except DecodeError (Event × List Byte)
  | d :: sel :: rest =>
    if sel = 0x00#8 then .ok (tableEvent d buf, rest)
    else if sel.extractLsb' 3 5 = 0b00010#5 then .ok (.poll (PState.ofBits (sel.setWidth 3)) (some d), rest)
    else if sel.extractLsb' 3 5 = 0b00100#5 then
      if d = 0x00#8 then .ok (.poll (PState.ofBits (sel.setWidth 3)) none, rest) else .error .strayByte
    else .error .unknownSelector
  | [_] => .error .truncated
  | [] => .error .truncated

/-- An event in the model's layout; the inverse of `eventOfBytes`. -/
def bytesOfEvent : Event → List Byte
  | .cmd code _ => [code.setWidth 8, 0x00#8]
  | .poll st (some b) => [b, 0b00010#5 ++ st.toBits]
  | .poll st none => [0x00#8, 0b00100#5 ++ st.toBits]

/-- The decoder of the model's layout: total on any bytes, rejecting by name. -/
def decodeBytes (buf : Nat) (bs : List Byte) : Except DecodeError (Instr × List Byte) :=
  match eventOfBytes buf bs with
  | .ok (e, rest) => .ok (decode e, rest)
  | .error r => .error r

/-- The bytes of an instruction in the model's layout. -/
def encodeBytes (i : Instr) : List Byte := bytesOfEvent (encode i)

/-- The event of a table word: its low 16 bits as two bytes, the bits at and above `nbits` zero, `cmd_buf` zero. -/
def eventOfTableWord (nbits w : Nat) : Option Event :=
  match eventOfBytes 0 [BitVec.ofNat 8 (w % 2 ^ nbits), BitVec.ofNat 8 (w % 2 ^ nbits / 256)] with
  | .ok (e, _) => some e
  | .error _ => none

/-- The instruction the decoder reads from a table word (log entry 11). -/
def decodeTableWord (nbits w : Nat) : Option Instr :=
  match eventOfTableWord nbits w with
  | some e => some (decode e)
  | none => none

end Sys2Proof
end

