-- ==== Sys2Proof/Machine/State.lean ====
section
/-! DEFINITION. The state of the block and of the world the spec gives it (10_state.md, 20_memory.md), its reset value (R36), and the reasons a step can stop (60_exceptions.md R175). -/

namespace Sys2Proof.Machine

/-- The result codes (30_encoding.md R72). -/
inductive Res where
  /-- `Packet`: the buffer holds 128 valid payload bytes. -/
  | packet
  /-- `Finished`: EOT received and acknowledged. -/
  | finished
  /-- `NoTransfer`: more than `NODATA_THRESHOLD` empty polls before any state transition. -/
  | noTransfer
  /-- `StateError`: `RECV` while the machine is idle. -/
  | stateError
deriving DecidableEq, Repr

/-- What the host does at a step (10_state.md R20, 30_encoding.md R70; log entry 1). -/
inductive HostInput where
  /-- Presents a command and holds it until `cmd_ready` (R104: the host waits while a call is in progress). -/
  | cmd (code : BitVec 2) (buf : Nat)
  /-- Presents a command at this step whether or not the block is ready: the host that breaks R104. -/
  | cmdNoWait (code : BitVec 2) (buf : Nat)
  /-- Asserts the reset input, accepted at any time (70_reset_and_hazards.md R190). -/
  | rst
  /-- Does nothing at this step. -/
  | pass
  /-- Writes a byte of its own memory once no call is in progress (20_memory.md R59). -/
  | write (addr : Nat) (v : Byte)
deriving DecidableEq, Repr

/-- Everything the spec gives the machine; INVENTORY.md "State" lists each field with its rule. -/
structure State where
  /-- `st` (R23). -/
  st : PState
  /-- `eseq`, the sequence tracker (R24). -/
  eseq : Byte
  /-- `sseq`, unused by the receiver (R25). -/
  sseq : Byte
  /-- `err`, the local error flag (R26). -/
  err : Bool
  /-- `csum`, the running checksum (R27). -/
  csum : Byte
  /-- `len`, the payload length and next buffer index (R28). -/
  len : Byte
  /-- `nodata`, the no-data counter (R29). -/
  nodata : Nat
  /-- `tr_seen`: a state transition has occurred in the current call (R30). -/
  trSeen : Bool
  /-- `busy`: a call is in progress (R31). -/
  busy : Bool
  /-- `res`, the result register; `none` is NONE (R32). -/
  res : Option Res
  /-- `init_done` (R34). -/
  initDone : Bool
  /-- The buffer bound to the current call, by its base address; none between calls (R55; log entry 5). -/
  bound : Option Nat
  /-- The host's memory, which holds the callers' buffers: (address, byte), addresses strictly rising (R35, R51; log entry 6). -/
  mem : List Host.Cell
  /-- The transmit stream, oldest byte first (R50, R63). -/
  tx : List Byte
  /-- The receive stream: the transport's coming answers in order (R50, R62). -/
  rx : List Answer
  /-- What the host does next, in order (R20; the model's own field, log entry 1). -/
  host : List HostInput
  /-- How many free answers have been drawn (the model's own field, log entry 2). -/
  draws : Nat
deriving DecidableEq, Repr

/-- Why the machine stops (R175). A fault is never cleared, so it ends the run. -/
inductive Fault where
  /-- `F_CMD_BUSY`: raised by INIT, START, ACK and RECV presented while `busy = 1` (R104). Safe: the spec's own fault, D9. -/
  | cmdBusy
  /-- `F_ILLEGAL`: raised by RX_ILLEGAL (R122), by the step when `st` is 7 (R77), and by a buffer write outside 0..127
  (R53). Safe: the spec's own fault, never reached from reset, D23. -/
  | illegal
  /-- Raised by RX_D0 and RX_DATA when no buffer is bound: the spec has no such write, since a call always has its
  buffer (R55). Safe: never reached from reset (log entry 5). -/
  | unboundBuffer
deriving DecidableEq, Repr

/-- What the model gives no meaning (R175). A refusal marks the whole run. -/
inductive Refusal where
  /-- An instruction without a meaning yet: raised by no arm of `exec` when all are modelled. Safe. -/
  | notModelled (mnemonic : String)
  /-- `R_NOT_INIT`: raised by START, ACK and RECV before the first INIT or reset (R105). Safe: the spec's own refusal, D10. -/
  | notInit
deriving DecidableEq, Repr

/-- The machine right after reset (R36, R190). The spec gives `st`, `eseq`, `sseq`, `busy`, `res`, `init_done`; `err`,
`csum`, `len`, `nodata`, `tr_seen` are unspecified and zero here (DESIGN CHOICE, log entry 3); nothing is in the world. -/
def State.reset : State where
  st := .idle
  eseq := 0x00#8
  sseq := 0x00#8
  err := false
  csum := 0x00#8
  len := 0x00#8
  nodata := 0
  trSeen := false
  busy := false
  res := none
  initDone := true
  bound := none
  mem := []
  tx := []
  rx := []
  host := []
  draws := 0

end Sys2Proof.Machine
end

