-- ==== Sys2Proof/Machine/Flags.lean ====
section
/-! DEFINITION. The checks of 42_validator.md and the one flag of the block, `err` (10_state.md R26, R40). -/

namespace Sys2Proof.Machine

/-- `SeqOK(b)`: the sequence byte equals `eseq` (R152). -/
def State.seqOK (s : State) (b : Byte) : Bool := b == s.eseq

/-- `CompOK(b)`: the complement byte equals `0xFF -8 eseq` (R153); it is not compared with the received sequence (R157). -/
def State.compOK (s : State) (b : Byte) : Bool := b == 0xFF#8 - s.eseq

/-- `Accept(b)`: the checksum byte equals `csum` and `err` is clear (R154, R158). -/
def State.accepts (s : State) (b : Byte) : Bool := b == s.csum && !s.err

/-- `if not ok: err <- 1`, with a flag already set staying set (R126, R127). -/
def State.noteCheck (s : State) (ok : Bool) : State := { s with err := s.err || !ok }

/-- `csum +8 b`: the sum wraps at each addition (R129, R151). -/
def addChecksum (sum b : Byte) : Byte := sum + b

/-- `Csum` of R150 over a list of bytes: their sum modulo 256. -/
def checksumOf (d : List Byte) : Byte := d.foldl addChecksum 0x00#8

end Sys2Proof.Machine
end

