-- ==== Sys2Proof/Machine/Memory.lean ====
section
/-! DEFINITION. The host's memory as a list of cells in one canonical form: addresses strictly rising (20_memory.md R51, R55; log entry 6). An unlisted address has no value here: the block has not written it and never reads it. -/

namespace Sys2Proof.Machine.Memory

/-- The byte at an address, none where nothing is listed: what the host left there is not the block's (R56). -/
def read (a : Nat) : List Host.Cell → Option Byte
  | [] => none
  | (b, w) :: m => if a = b then some w else read a m

/-- One byte written, in address order; every other address is untouched (R53). -/
def write (a : Nat) (v : Byte) : List Host.Cell → List Host.Cell
  | [] => [(a, v)]
  | (b, w) :: m =>
    if a < b then (a, v) :: (b, w) :: m
    else if a = b then (a, v) :: m
    else (b, w) :: write a v m

/-- Every listed address is above `lo`, and the addresses rise strictly. -/
def wfFrom (lo : Nat) : List Host.Cell → Bool
  | [] => true
  | (a, _) :: m => decide (lo ≤ a) && wfFrom (a + 1) m

/-- The canonical form: addresses strictly rising. No listed byte equals an unlisted one, which has no value. -/
def wf (m : List Host.Cell) : Bool := wfFrom 0 m

/-- The bytes at `base`, `base + 1`, …, `n` of them, where all have one. -/
def readBlock (base : Nat) (m : List Host.Cell) : Nat → Option (List Byte)
  | 0 => some []
  | n + 1 =>
    match readBlock base m n, read (base + n) m with
    | some bs, some b => some (bs ++ [b])
    | _, _ => none

end Sys2Proof.Machine.Memory
end

