-- ==== Sys2Proof/Machine/Operands.lean ====
section
/-! DEFINITION. The operand forms: the buffer index of a payload byte (20_memory.md R52, R53) and the address it names in the bound buffer (R55). No operand is extended, shifted or scaled (30_encoding.md R76). -/

namespace Sys2Proof.Machine

/-- `PAYLOAD_LEN` of R7: the bytes of a packet, and the end of the buffer index space (R65). -/
def payloadLen : Nat := 128

/-- The buffer index the next payload byte goes to: the old value of `len` (10_state.md R28, R129). -/
def State.payloadIndex (s : State) : Nat := s.len.toNat

/-- The address of index `i` in the buffer at `base`: consecutive bytes from its base (R52, R60; log entry 5). -/
def bufferAddr (base i : Nat) : Nat := base + i

end Sys2Proof.Machine
end

