-- ==== Sys2Proof/Machine/Ops.lean ====
section
/-! DEFINITION. The named operations over registers, streams and buffer (00_scope.md R9). The block has no exception entry (60_exceptions.md R170, R178); `State.complete` is the shared operation that stands in its place: how a call ends. -/

namespace Sys2Proof.Machine

/-- The outcome of a step of this machine. -/
abbrev StepResult := Host.Outcome State Fault Refusal

/-- Go on with `k` from a next state; a fault or a refusal stays. -/
def andThen (o : StepResult) (k : State → State) : StepResult :=
  match o with
  | .next s => .next (k s)
  | .fault r => .fault r
  | .refused r => .refused r

/-- `TxByte(v)`: appends to the transmit stream and always succeeds (20_memory.md R63, D11; log entry 13). -/
def State.transmit (s : State) (v : Byte) : State := { s with tx := s.tx ++ [v] }

/-- `st <- p` in a poll step: a step whose new `st` differs from the old one also sets `tr_seen` (R120, R30). -/
def State.moveTo (s : State) (p : PState) : State :=
  { s with st := p, trSeen := s.trSeen || decide (p ≠ s.st) }

/-- `Complete(code)`: the call ends with a result, and the block holds no buffer (R106, R55). -/
def State.complete (s : State) (code : Res) : State :=
  { s with busy := false, res := some code, bound := none }

/-- What INIT and the reset input both do (R100, R190). `err`, `csum`, `len`, `nodata`, `tr_seen`, the streams and the
memory are left as they are (R36, R192; log entry 4). -/
def State.initialise (s : State) : State :=
  { s with res := none, busy := false, bound := none, st := .idle, eseq := 0x00#8, sseq := 0x00#8, initDone := true }

/-- The acceptance of START, ACK and RECV: refused before the first INIT (R105), a fault in a call (R104), in that order
(R176); an accepted command first sets `res <- NONE` (R106). -/
def State.accept (s : State) (k : State → State) : StepResult :=
  if s.initDone = false then .refused .notInit
  else if s.busy then .fault .cmdBusy
  else .next (k { s with res := none })

/-- The acceptance of INIT: at any time before the first INIT (R105, R191), afterwards a fault in a call (R104). -/
def State.acceptInit (s : State) (k : State → State) : StepResult :=
  if s.initDone && s.busy then .fault .cmdBusy else .next (k s)

/-- A call begins on the buffer at `buf` (R103). -/
def State.beginCall (s : State) (buf : Nat) : State :=
  { s with bound := some buf, nodata := 0, trSeen := false, busy := true }

/-- `RxPoll()`: the next answer of the receive stream, which is consumed (R62, R64); past its end a free answer (log
entry 2). -/
def State.rxPoll (s : State) : Answer × State :=
  match s.rx with
  | a :: rest => (a, { s with rx := rest })
  | [] => (Config.freeAnswer s.draws, { s with draws := s.draws + 1 })

/-- `MemWrite(i, 1, v)` in the buffer of the current call: an index outside 0..127 is `F_ILLEGAL` (R53). -/
def State.bufWrite (s : State) (i : Nat) (v : Byte) : StepResult :=
  if i < payloadLen then
    match s.bound with
    | some base => .next { s with mem := Memory.write (bufferAddr base i) v s.mem }
    | none => .fault .unboundBuffer
  else .fault .illegal

/-- The no-data handling of R121 for a threshold and a counter's greatest value: count, saturating; end the call with
`NoTransfer` while no state transition has occurred and the count exceeds the threshold. -/
def State.emptyPoll (s : State) (threshold greatest : Nat) : State :=
  let n := min (s.nodata + 1) greatest
  let s1 := { s with nodata := n }
  if s.trSeen = false ∧ threshold < n then s1.complete .noTransfer else s1

/-- `EOT_NEXT_STATE` of R7: `AwaitStart`, the spec's resolution of conflict C2 (90_conflicts.md; log entry 8). -/
def eotNextState : PState := .awaitStart

/-- The end of a transfer for a given state after EOT (R124): ACK, the next state, `Finished`. -/
def State.finishTransfer (s : State) (after : PState) : State :=
  ((s.transmit ackByte).moveTo after).complete .finished

/-- The checksum step accepts: `eseq <- eseq +8 1`, result `Packet` (R130, R156). -/
def State.acceptPacket (s : State) : State :=
  { s with eseq := s.eseq + 0x01#8 }.complete .packet

/-- The packet is rejected: NAK, and the call goes on (R130, R155). -/
def State.rejectPacket (s : State) : State := s.transmit nakByte

end Sys2Proof.Machine
end

