-- ==== Sys2Proof/Machine/Commands.lean ====
section
/-! DEFINITION. The meanings of the host commands (40_commands.md). -/

namespace Sys2Proof.Machine

/-- `INIT` (R100). -/
def execInit (s : State) : Host.Outcome State Fault Refusal :=
  s.acceptInit State.initialise

/-- `START` (R101): NAK, `AwaitStart`; `eseq` is not reset (R199). -/
def execStart (s : State) : Host.Outcome State Fault Refusal :=
  s.accept fun s1 => { s1.transmit nakByte with st := .awaitStart }

/-- `ACK` (R102): ACK, `AwaitStart`; nothing checks that a `Packet` came before (D16). -/
def execAck (s : State) : Host.Outcome State Fault Refusal :=
  s.accept fun s1 => { s1.transmit ackByte with st := .awaitStart }

/-- `RECV` (R103): `StateError` at once in `Idle`, without any I/O (R172); otherwise the call begins. -/
def execRecv (buf : Nat) (s : State) : Host.Outcome State Fault Refusal :=
  s.accept fun s1 => if s1.st = .idle then { s1 with res := some .stateError } else s1.beginCall buf

end Sys2Proof.Machine
end

