-- ==== Sys2Proof/Machine/Receive.lean ====
section
/-! DEFINITION. The meanings of the receive events, one per row of the source's state table (41_receive_fsm.md). Each is the rule's effect; that an event occurs only in its state is the decoder's (R75; log entry 19). -/

namespace Sys2Proof.Machine

/-- `RX_NONE` (R121). -/
def execRxNone (s : State) : Host.Outcome State Fault Refusal :=
  .next (s.emptyPoll Config.nodataThreshold Config.nodataMax)

/-- `RX_SOH` (R123): the only step that clears `err`; it disarms the no-data timeout. -/
def execRxSoh (s : State) : Host.Outcome State Fault Refusal :=
  .next { s with err := false, st := .sohSeen, trSeen := true }

/-- `RX_EOT` (R124). -/
def execRxEot (s : State) : Host.Outcome State Fault Refusal :=
  .next (s.finishTransfer eotNextState)

/-- `RX_IGNORE` (R125): no effect. -/
def execRxIgnore (_b : Byte) (s : State) : Host.Outcome State Fault Refusal :=
  .next s

/-- `RX_SEQ` (R126): a mismatch with `eseq` sets `err`; the frame goes on. -/
def execRxSeq (b : Byte) (s : State) : Host.Outcome State Fault Refusal :=
  .next ((s.noteCheck (s.seqOK b)).moveTo .seqSeen)

/-- `RX_COMP` (R127): a mismatch with `255 - eseq` sets `err`; the frame goes on. -/
def execRxComp (b : Byte) (s : State) : Host.Outcome State Fault Refusal :=
  .next ((s.noteCheck (s.compOK b)).moveTo .compSeqSeen)

/-- `RX_D0` (R128): payload byte 0, stored even when `err` is set. -/
def execRxD0 (b : Byte) (s : State) : Host.Outcome State Fault Refusal :=
  andThen (s.bufWrite 0 b) fun s1 => { s1 with csum := b, len := 0x01#8 }.moveTo .accumulatingData

/-- `RX_DATA` (R129): payload byte `len`; the byte that makes `len` 128 moves to `AwaitChecksum` (C1). -/
def execRxData (b : Byte) (s : State) : Host.Outcome State Fault Refusal :=
  andThen (s.bufWrite s.payloadIndex b) fun s1 =>
    let s2 := { s1 with csum := addChecksum s1.csum b, len := s1.len + 0x01#8 }
    if s2.len = 128#8 then s2.moveTo .awaitChecksum else s2

/-- `RX_CKS` (R130): back to `AwaitStart` always; accept or reject by `Accept(b)` on the old registers. -/
def execRxCks (b : Byte) (s : State) : Host.Outcome State Fault Refusal :=
  let s1 := s.moveTo .awaitStart
  .next (if s.accepts b then s1.acceptPacket else s1.rejectPacket)

/-- `RX_ILLEGAL` (R122): `F_ILLEGAL` for either answer. -/
def execRxIllegal (_a : Answer) (_s : State) : Host.Outcome State Fault Refusal :=
  .fault .illegal

end Sys2Proof.Machine
end

