-- ==== Sys2Proof/Machine/Dispatch.lean ====
section
/-! DEFINITION. One arm per constructor of `Instr`, each one call of its meaning. -/

namespace Sys2Proof.Machine

/-- What an instruction does. -/
def exec (i : Instr) (s : State) : Host.Outcome State Fault Refusal :=
  match i with
  | .init => Sys2Proof.Machine.execInit s
  | .start => Sys2Proof.Machine.execStart s
  | .ack => Sys2Proof.Machine.execAck s
  | .recv buf => Sys2Proof.Machine.execRecv buf s
  | .rxNone => Sys2Proof.Machine.execRxNone s
  | .rxSoh => Sys2Proof.Machine.execRxSoh s
  | .rxEot => Sys2Proof.Machine.execRxEot s
  | .rxIgnore b => Sys2Proof.Machine.execRxIgnore b s
  | .rxSeq b => Sys2Proof.Machine.execRxSeq b s
  | .rxComp b => Sys2Proof.Machine.execRxComp b s
  | .rxD0 b => Sys2Proof.Machine.execRxD0 b s
  | .rxData b => Sys2Proof.Machine.execRxData b s
  | .rxCks b => Sys2Proof.Machine.execRxCks b s
  | .rxIllegal a => Sys2Proof.Machine.execRxIllegal a s

end Sys2Proof.Machine
end

