-- ==== Sys2Proof/Machine/Fetch.lean ====
section
/-! DEFINITION. Which event a step takes: the host's next input, or a poll of the transport while a call is in progress (00_scope.md R6, 41_receive_fsm.md R120; log entry 1). And how an instruction is placed so that the next step takes it (log entry 11). -/

namespace Sys2Proof.Machine

/-- What a step takes, with the state after taking it. -/
inductive Fetched where
  /-- A command or a poll's answer, which the decoder reads. -/
  | event (e : Event) (s : State)
  /-- The reset input (R190). -/
  | reset (s : State)
  /-- The host writes a byte of its own memory (R59). -/
  | hostWrite (addr : Nat) (v : Byte) (s : State)
  /-- Nothing: the block waits for a command (R184, R190). -/
  | wait (s : State)
deriving DecidableEq, Repr

/-- A call is in progress: before the first INIT `busy` has no meaning and no poll is taken (R191). -/
def State.running (s : State) : Bool := s.initDone && s.busy

/-- The host leaves a call in progress alone at this step: it has nothing to do, or it waits for the result (R186). -/
def State.hostWaits (s : State) : Bool :=
  match s.host with
  | [] => true
  | .cmd _ _ :: _ => true
  | .write _ _ :: _ => true
  | .cmdNoWait _ _ :: _ => false
  | .rst :: _ => false
  | .pass :: _ => false

/-- `st` holds the reserved code 7, which faults wherever it is held (R23, R77, R175); before the first INIT `st` has no
meaning (R191). DEDUCED, log entry 10. -/
def State.holdsReserved (s : State) : Bool := s.initDone && decide (s.st = .reserved)

/-- A poll step: one `RxPoll()`, dispatched on `(st, answer)` (R120). -/
def State.fetchPoll (s : State) : Fetched := .event (.poll s.st s.rxPoll.1) s.rxPoll.2

/-- Without an input from the host: a poll step in a call, else nothing. -/
def State.fetchQuiet (s : State) : Fetched := if s.running then s.fetchPoll else .wait s

/-- The next event. A command or a write of the host's waits for the end of a call (R104, R59); one step takes one
input (R58). -/
def State.fetch (s : State) : Fetched :=
  match s.host with
  | [] => s.fetchQuiet
  | .rst :: rest => .reset { s with host := rest }
  | .pass :: rest => { s with host := rest }.fetchQuiet
  | .cmdNoWait code buf :: rest => .event (.cmd code buf) { s with host := rest }
  | .cmd code buf :: rest => if s.running then s.fetchPoll else .event (.cmd code buf) { s with host := rest }
  | .write addr v :: rest => if s.running then s.fetchPoll else .hostWrite addr v { s with host := rest }

/-- The host's own write (R35: the buffer is owned by the host). -/
def State.hostWrite (s : State) (addr : Nat) (v : Byte) : State := { s with mem := Memory.write addr v s.mem }

/-- A state whose next step takes the event. A command: the host presents it at this step. A poll: a call in progress
in the event's state, its answer the next of the receive stream, its buffer the one bound or the one at address 0 (log
entry 11). -/
def State.place (s : State) : Event → State
  | .cmd code buf =>
    { s with host := .cmdNoWait code buf :: s.host, st := if s.holdsReserved then .idle else s.st }
  | .poll st a =>
    { s with
      host := .pass :: s.host, rx := a :: s.rx, initDone := true, busy := true, st := st,
      bound := some (s.bound.getD 0) }

/-- A state whose next step takes the event of a table word; unchanged where the word is no event. -/
def State.placeTableWord (s : State) (nbits w : Nat) : State :=
  match eventOfTableWord nbits w with
  | some e => s.place e
  | none => s

end Sys2Proof.Machine
end

