-- ==== Sys2Proof/Machine/Step.lean ====
section
/-! DEFINITION. One step of the machine (00_scope.md R6): take the next event and do what it says. -/

namespace Sys2Proof.Machine

/-- One step: a held reserved state faults (R77); an event runs its instruction; the reset input initialises (R190); the
host's write lands; otherwise the block waits. -/
def step (s : State) : Host.Outcome State Fault Refusal :=
  if s.holdsReserved then .fault .illegal
  else
    match s.fetch with
    | .event e s1 => exec (decode e) s1
    | .reset s1 => .next s1.initialise
    | .hostWrite addr v s1 => .next (s1.hostWrite addr v)
    | .wait s1 => .next s1

/-- `s` with the instruction of a table word where the next step takes it (log entry 11). -/
def State.withFetchWord (s : State) (nbits w : Nat) : State := s.placeTableWord nbits w

end Sys2Proof.Machine
end

