-- ==== Sys2Proof/Machine/Ports.lean ====
section
/-! DEFINITION. What the host sees without side effect (30_encoding.md R70, 10_state.md R39): the command port's ready, the result port, the status port, and the buffer between calls. -/

namespace Sys2Proof.Machine

/-- The 2-bit code of a result (R72). -/
def Res.code : Res → BitVec 2
  | .packet => 0b00#2
  | .finished => 0b01#2
  | .noTransfer => 0b10#2
  | .stateError => 0b11#2

/-- `cmd_ready`: `not busy` (R70). -/
def State.cmdReady (s : State) : Bool := !s.busy

/-- `res_valid`: `res != NONE` (R70). -/
def State.resValid (s : State) : Bool := s.res.isSome

/-- `res_code`, where there is a result (R70, R72); the spec gives it no value without one. -/
def State.resCode (s : State) : Option (BitVec 2) := s.res.map Res.code

/-- `stat_st` (R70, R79). -/
def State.statSt (s : State) : BitVec 3 := s.st.toBits

/-- `stat_eseq` (R70). -/
def State.statEseq (s : State) : Byte := s.eseq

/-- `stat_sseq` (R70). -/
def State.statSseq (s : State) : Byte := s.sseq

/-- `stat_busy` (R70). -/
def State.statBusy (s : State) : Bool := s.busy

/-- The host's read of its memory, which it makes only while `busy = 0` (R39, R59); none in a call. -/
def State.hostRead (s : State) (addr : Nat) : Option Byte := if s.busy then none else Memory.read addr s.mem

end Sys2Proof.Machine
end

