-- ==== Sys2Proof/Machine/Run.lean ====
section
/-! DEFINITION. Runs: several steps, when a run is over, and the observable outcome of a finished run (70_reset_and_hazards.md R201). -/

namespace Sys2Proof.Machine

/-- `k` steps, stopping at the first fault or refusal. -/
def steps : Nat → State → StepResult
  | 0, s => .next s
  | k + 1, s =>
    match step s with
    | .next t => steps k t
    | .fault r => .fault r
    | .refused r => .refused r

/-- The input is neither a command nor the reset input. R201 names commands only and is silent on a reset still to come,
which is no command (R70, R71): that a pending `rst` keeps a run from being over is the model's (DESIGN CHOICE, log entry
22). -/
def HostInput.quiet : HostInput → Bool
  | .cmd _ _ => false
  | .cmdNoWait _ _ => false
  | .rst => false
  | .pass => true
  | .write _ _ => true

/-- R201: `busy = 0` and the host issues no further command (a faulted or refused run has no such state), nor a reset
(DESIGN CHOICE, log entry 22). -/
def State.runOver (s : State) : Bool := !s.busy && s.host.all HostInput.quiet

/-- What an input of the host does to its own memory: a write stores its byte (R59), any other input nothing. -/
def HostInput.store (m : List Host.Cell) : HostInput → List Host.Cell
  | .cmd _ _ => m
  | .cmdNoWait _ _ => m
  | .rst => m
  | .pass => m
  | .write addr v => Memory.write addr v m

/-- The 128 bytes of the buffer at `base` (R51, R65); none where nothing was ever written. What lies beyond index 127 is
not observed (R201). -/
def State.bufferContents (s : State) (base : Nat) : List (Option Byte) :=
  (List.range payloadLen).map fun i => Memory.read (bufferAddr base i) s.mem

/-- A call that is over, as the host sees it (R201; log entry 21). -/
structure CallRecord where
  /-- The handle of the buffer handed to the call (R55). -/
  buf : Nat
  /-- Its result; none where the reset input ended it (R190). -/
  result : Option Res
  /-- The buffer as the call left it. -/
  contents : List (Option Byte)
deriving DecidableEq, Repr

/-- The call on `buf` that is over in `s`, its result the one the result port shows (R106). -/
def State.callRecord (s : State) (buf : Nat) : CallRecord :=
  { buf := buf, result := s.res, contents := s.bufferContents buf }

/-- The handle of the `RECV` the next step takes from the host, where it takes one (R71, R103). -/
def State.recvTaken (s : State) : Option Nat :=
  match s.fetch with
  | .event (.cmd code buf) _ => if decode (.cmd code buf) = .recv buf then some buf else none
  | .event (.poll _ _) _ => none
  | .reset _ => none
  | .hostWrite _ _ _ => none
  | .wait _ => none

/-- The call that is over with the step from `s` to `t`: the `RECV` that fails at once (R172), or the call in progress
that ends (R106, R190). -/
def callEnded (s t : State) : Option CallRecord :=
  if t.busy then none
  else
    match s.recvTaken with
    | some buf => some (t.callRecord buf)
    | none => if s.running then s.bound.map t.callRecord else none

/-- The calls that are over in the next `k` steps, in order. -/
def runCalls : Nat → State → List CallRecord
  | 0, _ => []
  | k + 1, s =>
    match step s with
    | .next t => (callEnded s t).toList ++ runCalls k t
    | .fault _ => []
    | .refused _ => []

/-- The observable outcome of a finished run (R201). -/
structure RunOutcome where
  /-- The run's calls in order, each with its result and its buffer. -/
  calls : List CallRecord
  /-- The transmit stream. -/
  tx : List Byte
  /-- The final `st`. -/
  st : PState
  /-- The final `eseq`. -/
  eseq : Byte
  /-- The final `sseq`. -/
  sseq : Byte
deriving DecidableEq, Repr

/-- The sequence of results of the run's calls (R201); a call the reset input ended has none (R190). -/
def RunOutcome.results (o : RunOutcome) : List Res := o.calls.filterMap CallRecord.result

/-- The outcome of the run of `k` steps from `s`, where it is finished: not while `busy = 1`, nor after a fault or a
refusal, however long it has run (R201), nor with a reset still to come (DESIGN CHOICE, log entry 22). -/
def runOutcome (k : Nat) (s : State) : Option RunOutcome :=
  match steps k s with
  | .next t =>
    if t.runOver then
      some { calls := runCalls k s, tx := t.tx, st := t.st, eseq := t.eseq, sseq := t.sseq }
    else none
  | .fault _ => none
  | .refused _ => none

end Sys2Proof.Machine
end

