-- ==== Sys2Proof/Machine/Script.lean ====
section
/-! DEFINITION. The script syntax of 30_encoding.md R80 and R81: what a script's items mean as the host's inputs, the transport's answers and the expected transmissions and results. Comments have no meaning. -/

namespace Sys2Proof.Machine

/-- The frame of R74 as the transport's answers: SOH, sequence, complement, data, checksum (`FRAME` of R81). -/
def frame (seq comp : Byte) (d : List Byte) (cks : Byte) : List Answer :=
  [some 0x01#8, some seq, some comp] ++ d.map some ++ [some cks]

/-- An item of a script (R80, R81). -/
inductive ScriptItem where
  /-- `INIT`, `START`, `ACK` or `RECV`, by its code (R71), with the handle a `RECV` puts on `cmd_buf`. -/
  | command (code : BitVec 2) (buf : Nat)
  /-- `RX 0xHH`. -/
  | rx (b : Byte)
  /-- `RX - *n`; `RX -` is one. -/
  | rxEmpty (n : Nat)
  /-- `FRAME s, c, [d0, ..., d127], k`. -/
  | frame (seq comp : Byte) (d : List Byte) (cks : Byte)
  /-- `GOOD s, [d0, ..., d127]`. -/
  | good (seq : Byte) (d : List Byte)
  /-- `EOT`. -/
  | eot
  /-- `=> TX 0xHH`. -/
  | expectTx (b : Byte)
  /-- `=> RES <name>`. -/
  | expectRes (code : Res)
deriving DecidableEq, Repr

/-- `DATA(f)` of R81: the bytes `f(0), ..., f(127)`. -/
def scriptData (f : Nat → Byte) : List Byte := (List.range 128).map f

/-- What an item has the host do; it waits for the result of a `RECV` (R80). -/
def scriptInput : ScriptItem → List HostInput
  | .command code buf => [.cmd code buf]
  | .rx _ => []
  | .rxEmpty _ => []
  | .frame _ _ _ _ => []
  | .good _ _ => []
  | .eot => []
  | .expectTx _ => []
  | .expectRes _ => []

/-- The answers an item has the transport give, pseudo-instructions expanded (R80, R81). -/
def scriptAnswers : ScriptItem → List Answer
  | .command _ _ => []
  | .rx b => [some b]
  | .rxEmpty n => List.replicate n none
  | .frame seq comp d cks => frame seq comp d cks
  | .good seq d => frame seq (0xFF#8 - seq) d (checksumOf d)
  | .eot => [some 0x04#8]
  | .expectTx _ => []
  | .expectRes _ => []

/-- The byte an item expects on the transmit stream. -/
def scriptTx : ScriptItem → List Byte
  | .command _ _ => []
  | .rx _ => []
  | .rxEmpty _ => []
  | .frame _ _ _ _ => []
  | .good _ _ => []
  | .eot => []
  | .expectTx b => [b]
  | .expectRes _ => []

/-- The result an item expects. -/
def scriptRes : ScriptItem → List Res
  | .command _ _ => []
  | .rx _ => []
  | .rxEmpty _ => []
  | .frame _ _ _ _ => []
  | .good _ _ => []
  | .eot => []
  | .expectTx _ => []
  | .expectRes code => [code]

/-- A script set before the block: the host's commands and the transport's answers, each in the script's order (R80). -/
def State.withScript (s : State) (l : List ScriptItem) : State :=
  { s with host := l.flatMap scriptInput, rx := l.flatMap scriptAnswers }

end Sys2Proof.Machine
end

