-- ==== Sys2Proof/Safety.lean ====
section
/-! DEFINITION. What claims are stated with: the invariants of the state (10_state.md R37, R38, 42_validator.md R151), the next-state table (41_receive_fsm.md R131), and what a run delivers (42_validator.md R156). -/

namespace Sys2Proof.Machine

/-- What holds of the state between any two steps. Before the first INIT or reset only the memory's form and the
counter's width are said (R191). -/
structure State.Inv (s : State) : Prop where
  /-- The memory is in its canonical form. -/
  memWf : Memory.wf s.mem = true
  /-- The counter has the width `NODATA_CNT_W` (R29). -/
  counterFits : s.nodata ≤ Config.nodataMax
  /-- The reserved code is never held (R23). -/
  legal : s.initDone = true → s.st ≠ .reserved
  /-- R37: between commands `st` is `Idle` or `AwaitStart`. -/
  between : s.initDone = true → s.busy = false → s.st = .idle ∨ s.st = .awaitStart
  /-- No call is in `Idle` (R122, reachability). -/
  inCall : s.running = true → s.st ≠ .idle
  /-- A call holds a buffer; between calls none is held (R55). -/
  bufferHeld : s.initDone = true → s.bound.isSome = s.busy
  /-- No result during a call (R32, R106). -/
  noResult : s.running = true → s.res = none
  /-- While no transition has occurred the call is still in `AwaitStart` and the count has not passed the threshold
  (R37, R121). -/
  armed : s.running = true → s.trSeen = false → s.st = .awaitStart ∧ s.nodata ≤ Config.nodataThreshold
  /-- R38: `1 <= len <= 127` in `AccumulatingData`. -/
  lenInData : s.initDone = true → s.st = .accumulatingData → 1 ≤ s.len.toNat ∧ s.len.toNat ≤ 127
  /-- R38: `len = 128` in `AwaitChecksum`. -/
  lenFull : s.initDone = true → s.st = .awaitChecksum → s.len = 128#8
  /-- `sseq` is never other than 0 (R25, U4). -/
  senderUnused : s.initDone = true → s.sseq = 0x00#8

/-- R151: while payload is being taken and at the checksum, the buffer's first `len` bytes have been written in the call
and `csum` is their sum modulo 256. -/
def State.PayloadInv (s : State) : Prop :=
  s.initDone = true → s.st = .accumulatingData ∨ s.st = .awaitChecksum →
    ∃ base d, s.bound = some base ∧ Memory.readBlock base s.mem s.len.toNat = some d ∧ s.csum = checksumOf d

/-- The next-state function of R131, for a state of a call, an answer and the old `len`. -/
def nextProtocolState (st : PState) (a : Answer) (len : Byte) : PState :=
  match a with
  | none => st
  | some b =>
    match st with
    | .awaitStart => if b = 0x01#8 then .sohSeen else if b = 0x04#8 then eotNextState else .awaitStart
    | .sohSeen => .seqSeen
    | .seqSeen => .compSeqSeen
    | .compSeqSeen => .accumulatingData
    | .accumulatingData => if len.toNat + 1 = 128 then .awaitChecksum else .accumulatingData
    | .awaitChecksum => .awaitStart
    | .idle => .idle
    | .reserved => .reserved

/-- The working registers no port shows (R39), put to one value. -/
def State.hideWorking (s : State) : State :=
  { s with err := false, csum := 0x00#8, len := 0x00#8, nodata := 0, trSeen := false }

/-- The host input is neither the command INIT nor the reset input. -/
def HostInput.keepsSequence : HostInput → Bool
  | .cmd code _ => !(code == 0b00#2)
  | .cmdNoWait code _ => !(code == 0b00#2)
  | .rst => false
  | .pass => true
  | .write _ _ => true

/-- How many of the next `k` steps end a call with the result `Packet`. -/
def acceptedPackets : Nat → State → Nat
  | 0, _ => 0
  | k + 1, s =>
    match step s with
    | .next t => (if s.running && !t.busy && decide (t.res = some .packet) then 1 else 0) + acceptedPackets k t
    | .fault _ => 0
    | .refused _ => 0

end Sys2Proof.Machine
end

