-- ==== Sys2Proof/Certificates/Slice0/Obligations.lean ====
section
/-! DEFINITION. The statements for the provers. A result statement equates what an instruction answers with a record update of the state before it: what the update does not name is unchanged, so it states the frame of every register, flag, stream and byte of memory too. The frames of the two storing instructions are also stated byte by byte. -/

open Sys2Proof Sys2Proof.Machine

/-! ### Encoding -/

/-- 30_encoding.md R71: the four command codes, for whatever stands on `cmd_buf`. -/
def Obligations.CommandCodesSelectCommands : Prop :=
  ∀ buf : Nat,
    decode (.cmd 0b00#2 buf) = .init ∧ decode (.cmd 0b01#2 buf) = .start ∧
    decode (.cmd 0b10#2 buf) = .ack ∧ decode (.cmd 0b11#2 buf) = .recv buf

/-- 30_encoding.md R75: the receive-event decode, every state and every answer; in `Idle` and 7 either answer is
`RX_ILLEGAL` (R122; DEDUCED, log entry 9). -/
def Obligations.ReceiveEventsDecodeByStateAndAnswer : Prop :=
  (∀ st : PState, st ≠ .idle → st ≠ .reserved → decode (.poll st none) = .rxNone) ∧
  (∀ b : Byte,
    decode (.poll .awaitStart (some b)) =
        (if b = 0x01#8 then .rxSoh else if b = 0x04#8 then .rxEot else .rxIgnore b) ∧
    decode (.poll .sohSeen (some b)) = .rxSeq b ∧
    decode (.poll .seqSeen (some b)) = .rxComp b ∧
    decode (.poll .compSeqSeen (some b)) = .rxD0 b ∧
    decode (.poll .accumulatingData (some b)) = .rxData b ∧
    decode (.poll .awaitChecksum (some b)) = .rxCks b) ∧
  (∀ a : Answer, decode (.poll .idle a) = .rxIllegal a ∧ decode (.poll .reserved a) = .rxIllegal a)

/-- 30_encoding.md R79 (10_state.md R23): the state codes 0 to 6 in order, 7 reserved, and every code one state. -/
def Obligations.StateCodesAreInOrder : Prop :=
  (PState.idle.toBits = 0#3 ∧ PState.awaitStart.toBits = 1#3 ∧ PState.sohSeen.toBits = 2#3 ∧
    PState.seqSeen.toBits = 3#3 ∧ PState.compSeqSeen.toBits = 4#3 ∧ PState.accumulatingData.toBits = 5#3 ∧
    PState.awaitChecksum.toBits = 6#3 ∧ PState.reserved.toBits = 7#3) ∧
  (∀ p : PState, PState.ofBits p.toBits = p) ∧ (∀ v : BitVec 3, (PState.ofBits v).toBits = v)

/-- 10_state.md R39, 30_encoding.md R70, R72: what the ports show. -/
def Obligations.PortsShowTheState : Prop :=
  ∀ s : State,
    s.statSt = s.st.toBits ∧ s.statEseq = s.eseq ∧ s.statSseq = s.sseq ∧ s.statBusy = s.busy ∧
    s.cmdReady = !s.busy ∧ (s.resValid = true ↔ s.res ≠ none) ∧
    (s.res = some .packet → s.resCode = some 0b00#2) ∧ (s.res = some .finished → s.resCode = some 0b01#2) ∧
    (s.res = some .noTransfer → s.resCode = some 0b10#2) ∧ (s.res = some .stateError → s.resCode = some 0b11#2) ∧
    (s.busy = false → ∀ addr, s.hostRead addr = Memory.read addr s.mem)

/-- A few words of the opcode table and of the model's two-byte layout (DESIGN CHOICE, log entry 11). -/
def Obligations.TableWordsDecode : Prop :=
  decodeTableWord 8 0 = some .init ∧ decodeTableWord 8 1 = some .start ∧ decodeTableWord 8 2 = some .ack ∧
  decodeTableWord 8 3 = some (.recv 0) ∧ decodeTableWord 8 4 = some .rxEot ∧
  decodeTableWord 16 0x1101 = some .rxSoh ∧ decodeTableWord 16 0x2100 = some .rxNone ∧
  decodeTableWord 16 0x1143 = some (.rxIgnore 0x43#8) ∧ decodeTableWord 16 0x1204 = some (.rxSeq 0x04#8) ∧
  decodeTableWord 16 0x13FF = some (.rxComp 0xFF#8) ∧ decodeTableWord 16 0x147E = some (.rxD0 0x7E#8) ∧
  decodeTableWord 16 0x1501 = some (.rxData 0x01#8) ∧ decodeTableWord 16 0x16C0 = some (.rxCks 0xC0#8) ∧
  decodeTableWord 16 0x1055 = some (.rxIllegal (some 0x55#8)) ∧ decodeTableWord 16 0x8000 = none

/-- Decoding an encoded well-formed instruction gives it back: as an event (R71, R75), and through the bytes of the
model's layout (DESIGN CHOICE, log entry 11), where `RECV`'s handle is what stands on `cmd_buf`. -/
def Obligations.EncodedInstructionsDecodeBack : Prop :=
  ∀ i : Instr, i.wellFormed = true →
    decode (encode i) = i ∧
    ∀ (buf : Nat) (rest : List Byte), (∀ b, i = .recv b → b = buf) →
      decodeBytes buf (encodeBytes i ++ rest) = .ok (i, rest)

/-- Every event selects a well-formed instruction (R75, R77), and no bit of a byte polled in a state of a call, or of a
command, is lost. -/
def Obligations.DecodedInstructionsKeepTheirEvent : Prop :=
  (∀ e : Event, (decode e).wellFormed = true) ∧
  (∀ (st : PState) (b : Byte), st ≠ .reserved → encode (decode (.poll st (some b))) = .poll st (some b)) ∧
  (∀ (code : BitVec 2) (buf : Nat), ∃ buf', encode (decode (.cmd code buf)) = .cmd code buf' ∧
    (code = 0b11#2 → buf' = buf))

/-! ### The step -/

/-- What a step runs. In a call with the host waiting, or letting the step pass, the decoded answer of one poll, listed or
a free value (R120, R62; log entries 1 and 2); with no call in progress, the host's command; a command the host presents without waiting, in
either case. Around the instruction the step only takes the answer, or the input, from its list. -/
def Obligations.StepRunsTheDecodedInstruction : Prop :=
  ∀ s : State, s.holdsReserved = false →
    (∀ a rest, s.running = true → s.hostWaits = true → s.rx = a :: rest →
      step s = exec (decode (.poll s.st a)) { s with rx := rest }) ∧
    (s.running = true → s.hostWaits = true → s.rx = [] →
      step s = exec (decode (.poll s.st (Config.freeAnswer s.draws))) { s with draws := s.draws + 1 }) ∧
    (∀ a rest inputs, s.running = true → s.host = .pass :: inputs → s.rx = a :: rest →
      step s = exec (decode (.poll s.st a)) { s with rx := rest, host := inputs }) ∧
    (∀ inputs, s.running = true → s.host = .pass :: inputs → s.rx = [] →
      step s = exec (decode (.poll s.st (Config.freeAnswer s.draws)))
        { s with draws := s.draws + 1, host := inputs }) ∧
    (∀ code buf inputs, s.running = false → s.host = .cmd code buf :: inputs →
      step s = exec (decode (.cmd code buf)) { s with host := inputs }) ∧
    (∀ code buf inputs, s.host = .cmdNoWait code buf :: inputs →
      step s = exec (decode (.cmd code buf)) { s with host := inputs })

/-- A table word placed for the next step is what the next step runs (DESIGN CHOICE, log entry 11): on a state that
differs from the given one at most in `st`, `busy`, `init_done` and the bound buffer, which a poll's event needs. -/
def Obligations.PlacedTableWordRunsNext : Prop :=
  ∀ (s : State) (nbits w : Nat) (i : Instr), decodeTableWord nbits w = some i →
    ∃ u, step (s.withFetchWord nbits w) = exec i u ∧
      u = { s with st := u.st, busy := u.busy, initDone := u.initDone, bound := u.bound }

/-- 70_reset_and_hazards.md R190: the reset input, in a call too; a call ends with no result, no byte sent, no byte stored.
From the model, not the spec: that `err`, `csum`, `len`, `nodata` and `tr_seen`, which R36 and R192 leave unspecified, keep
their values (DESIGN CHOICE, unsafe, log entry 4), that a held 7 comes first (DEDUCED, log entry 10), and that the buffer
binding is dropped in this form (DESIGN CHOICE, log entry 5). -/
def Obligations.ResetInputInitialises : Prop :=
  ∀ (s : State) (inputs : List HostInput), s.holdsReserved = false → s.host = .rst :: inputs →
    step s = .next { s with
      host := inputs, st := .idle, eseq := 0x00#8, sseq := 0x00#8, busy := false, res := none, initDone := true,
      bound := none }

/-- 10_state.md R36: the values the spec gives after reset. -/
def Obligations.ResetStateHoldsTheSpecsValues : Prop :=
  State.reset.st = .idle ∧ State.reset.eseq = 0x00#8 ∧ State.reset.sseq = 0x00#8 ∧ State.reset.busy = false ∧
  State.reset.res = none ∧ State.reset.initDone = true

/-- R23, R77, R175: a held state code 7 is `F_ILLEGAL`, whatever the host does (DEDUCED, log entry 10). -/
def Obligations.ReservedStateFaults : Prop :=
  ∀ s : State, s.initDone = true → s.st = .reserved → step s = .fault .illegal

/-- R201, R184: once a run is over (`busy = 0`, no further command; and no reset to come: DESIGN CHOICE, log entry
22) any number of steps completes, and changes nothing but
what the host does itself: its inputs are taken one a step, and memory is changed by exactly its own writes among them, in
order, so no buffer is changed by the block. A step with nothing to do is the model's (DEDUCED, log entry 12); the host's
list is too (DESIGN CHOICE, log entry 1). -/
def Obligations.OverRunStaysAsItIs : Prop :=
  ∀ (k : Nat) (s : State), s.holdsReserved = false → s.runOver = true →
    steps k s = .next { s with host := s.host.drop k, mem := (s.host.take k).foldl HostInput.store s.mem }

/-- R191: before the first INIT or reset the block polls nothing, sends nothing and stores nothing; the only way on is
initialisation. -/
def Obligations.PowerOnStateOnlyInitialises : Prop :=
  ∀ s t : State, s.initDone = false → step s = .next t →
    (t.initDone = true ∧ t.st = .idle ∧ t.eseq = 0x00#8 ∧ t.sseq = 0x00#8 ∧ t.busy = false ∧ t.res = none ∧
      t.tx = s.tx ∧ t.mem = s.mem ∧ t.rx = s.rx) ∨
    (t = { s with host := t.host, mem := t.mem } ∧
      (t.mem = s.mem ∨ ∃ addr v inputs, s.host = .write addr v :: inputs ∧ t.mem = Memory.write addr v s.mem))

/-! ### Commands -/

/-- 40_commands.md R100, R105: INIT, from every state not in a call, whatever the registers hold. From the model, not the
spec: that `err`, `csum`, `len`, `nodata` and `tr_seen`, which R36 and R192 leave unspecified, keep their values (DESIGN
CHOICE, unsafe, log entry 4), and that the buffer binding is dropped in this form (DESIGN CHOICE, log entry 5). -/
def Obligations.InitInitialises : Prop :=
  ∀ s : State, (s.initDone = true → s.busy = false) →
    exec .init s = .next { s with
      res := none, busy := false, st := .idle, eseq := 0x00#8, sseq := 0x00#8, initDone := true, bound := none }

/-- 40_commands.md R101: START sends one NAK and waits for a packet; `eseq` stays (R199). -/
def Obligations.StartSendsNakAndAwaits : Prop :=
  ∀ s : State, s.initDone = true → s.busy = false →
    exec .start s = .next { s with res := none, tx := s.tx ++ [0x15#8], st := .awaitStart }

/-- 40_commands.md R102: ACK sends one ACK and waits for a packet, in `Idle` too. -/
def Obligations.AckSendsAckAndAwaits : Prop :=
  ∀ s : State, s.initDone = true → s.busy = false →
    exec .ack s = .next { s with res := none, tx := s.tx ++ [0x06#8], st := .awaitStart }

/-- 40_commands.md R103, 60_exceptions.md R172: RECV in `Idle` fails at once and changes nothing but `res`. -/
def Obligations.RecvInIdleGivesStateError : Prop :=
  ∀ (s : State) (buf : Nat), s.initDone = true → s.busy = false → s.st = .idle →
    exec (.recv buf) s = .next { s with res := some .stateError }

/-- 40_commands.md R103: RECV in any other state begins the call on the caller's buffer. -/
def Obligations.RecvBeginsCall : Prop :=
  ∀ (s : State) (buf : Nat), s.initDone = true → s.busy = false → s.st ≠ .idle →
    exec (.recv buf) s = .next { s with
      res := none, bound := some buf, nodata := 0, trSeen := false, busy := true }

/-- 40_commands.md R105: before the first INIT the other commands are refused, whatever `busy` holds; INIT is accepted
then, and afterwards whenever `busy = 0`. -/
def Obligations.CommandsBeforeInitAreRefused : Prop :=
  (∀ (s : State) (buf : Nat), s.initDone = false →
    exec .start s = .refused .notInit ∧ exec .ack s = .refused .notInit ∧ exec (.recv buf) s = .refused .notInit ∧
    exec .init s = .next s.initialise) ∧
  (∀ s : State, s.initDone = true → s.busy = false → exec .init s = .next s.initialise)

/-- 40_commands.md R104: in a call `cmd_ready` is 0, and a command presented anyway is the fault `F_CMD_BUSY`; with
`busy = 0` `cmd_ready` is 1 and no command faults. -/
def Obligations.CommandsInCallFault : Prop :=
  (∀ (s : State) (code : BitVec 2) (buf : Nat) (inputs : List HostInput), s.initDone = true → s.busy = true →
    s.cmdReady = false ∧ exec (decode (.cmd code buf)) s = .fault .cmdBusy ∧
    (s.st ≠ .reserved → s.host = .cmdNoWait code buf :: inputs → step s = .fault .cmdBusy)) ∧
  (∀ (s : State) (code : BitVec 2) (buf : Nat), s.initDone = true → s.busy = false →
    s.cmdReady = true ∧ ∃ t, exec (decode (.cmd code buf)) s = .next t)

/-! ### Receive events -/

/-- 41_receive_fsm.md R121: an empty poll counts, saturating at `2^NODATA_CNT_W - 1`, and ends the call with `NoTransfer`
exactly while no transition has occurred and the count exceeds the threshold. -/
def Obligations.EmptyPollCountsAndMayEndTheCall : Prop :=
  ∀ s : State,
    let n := min (s.nodata + 1) (2 ^ Config.nodataWidth - 1)
    exec .rxNone s = .next
      (if s.trSeen = false ∧ Config.nodataThreshold < n then
        { s with nodata := n, busy := false, res := some .noTransfer, bound := none }
      else { s with nodata := n })

/-- 41_receive_fsm.md R123: SOH clears `err`, starts a frame and disarms the timeout. -/
def Obligations.SohStartsAFrame : Prop :=
  decode (.poll .awaitStart (some 0x01#8)) = .rxSoh ∧
  ∀ s : State, exec .rxSoh s = .next { s with err := false, st := .sohSeen, trSeen := true }

/-- 41_receive_fsm.md R124 with `EOT_NEXT_STATE = AwaitStart` (90_conflicts.md C2): EOT is acknowledged and ends the
call with `Finished`. -/
def Obligations.EotEndsTheTransfer : Prop :=
  decode (.poll .awaitStart (some 0x04#8)) = .rxEot ∧
  ∀ s : State, s.st = .awaitStart →
    exec .rxEot s = .next { s with tx := s.tx ++ [0x06#8], busy := false, res := some .finished, bound := none }

/-- D25: for both values of `EOT_NEXT_STATE` the EOT step leaves that state with `Finished`, ACK sent; a later RECV then
begins a call or fails with `StateError` (vectors V21, V22, V56, V57). -/
def Obligations.StateAfterEotDecidesTheNextRecv : Prop :=
  ∀ (s : State) (after : PState) (buf : Nat), s.initDone = true → after = .awaitStart ∨ after = .idle →
    (s.finishTransfer after).st = after ∧ (s.finishTransfer after).res = some .finished ∧
    (s.finishTransfer after).tx = s.tx ++ [0x06#8] ∧
    ∃ t, exec (.recv buf) (s.finishTransfer after) = .next t ∧
      (after = .awaitStart → t.busy = true ∧ t.res = none) ∧
      (after = .idle → t.busy = false ∧ t.res = some .stateError)

/-- 41_receive_fsm.md R125: any other byte in `AwaitStart` changes nothing; the step only consumes it. -/
def Obligations.IgnoredByteChangesNothing : Prop :=
  ∀ (s : State) (b : Byte) (rest : List Answer), b ≠ 0x01#8 → b ≠ 0x04#8 →
    decode (.poll .awaitStart (some b)) = .rxIgnore b ∧ exec (.rxIgnore b) s = .next s ∧
    (s.running = true → s.hostWaits = true → s.st = .awaitStart → s.rx = some b :: rest →
      step s = .next { s with rx := rest })

/-- 41_receive_fsm.md R126: the sequence byte; a mismatch sets `err`, a match leaves it. -/
def Obligations.SequenceByteIsChecked : Prop :=
  ∀ (s : State) (b : Byte), s.st = .sohSeen →
    decode (.poll s.st (some b)) = .rxSeq b ∧
    exec (.rxSeq b) s = .next { s with
      err := if b = s.eseq then s.err else true, st := .seqSeen, trSeen := true }

/-- 41_receive_fsm.md R127: the complement byte, checked against `255 - eseq`; a mismatch sets `err`, a match leaves it. -/
def Obligations.ComplementByteIsChecked : Prop :=
  ∀ (s : State) (b : Byte), s.st = .seqSeen →
    decode (.poll s.st (some b)) = .rxComp b ∧
    exec (.rxComp b) s = .next { s with
      err := if b.toNat = 255 - s.eseq.toNat then s.err else true, st := .compSeqSeen, trSeen := true }

/-- 42_validator.md R157: the header leaves `err` clear exactly for the sequence `eseq` with its complement. -/
def Obligations.HeaderErrorExactlyOnMismatch : Prop :=
  ∀ (s : State) (seq comp : Byte), s.err = false →
    ∃ u t, exec (.rxSeq seq) s = .next u ∧ exec (.rxComp comp) u = .next t ∧ t.eseq = s.eseq ∧
      (t.err = false ↔ seq = s.eseq ∧ comp = 0xFF#8 - s.eseq)

/-- 41_receive_fsm.md R128: payload byte 0, stored at index 0 whatever `err` is. -/
def Obligations.FirstPayloadByteIsStored : Prop :=
  ∀ (s : State) (b : Byte) (base : Nat), s.st = .compSeqSeen → s.bound = some base →
    decode (.poll s.st (some b)) = .rxD0 b ∧
    exec (.rxD0 b) s = .next { s with
      mem := Memory.write (base + 0) b s.mem, csum := b, len := 1#8, st := .accumulatingData, trSeen := true }

/-- 41_receive_fsm.md R129, 90_conflicts.md C1: payload bytes 1 to 127, stored at index `len`; the sum wraps; the byte
stored at index 127 moves to `AwaitChecksum`. -/
def Obligations.LaterPayloadBytesAreStored : Prop :=
  ∀ (s : State) (b : Byte) (base : Nat), s.st = .accumulatingData → s.bound = some base → s.len.toNat ≤ 127 →
    decode (.poll s.st (some b)) = .rxData b ∧
    exec (.rxData b) s = .next
      (if s.len.toNat = 127 then
        { s with
          mem := Memory.write (base + 127) b s.mem, csum := s.csum + b, len := 128#8, st := .awaitChecksum,
          trSeen := true }
      else
        { s with mem := Memory.write (base + s.len.toNat) b s.mem, csum := s.csum + b, len := s.len + 1#8 })

/-- The frame of the storing instructions, byte by byte (R128, R129, R53): the byte at the buffer's base plus the index
(0, or the old `len`) becomes the polled byte, and every other byte of memory reads as before. -/
def Obligations.StoringInstructionsWriteOneByte : Prop :=
  ∀ (s t : State) (b : Byte) (base : Nat), s.bound = some base →
    (exec (.rxD0 b) s = .next t →
      Memory.read (bufferAddr base 0) t.mem = some b ∧
      ∀ addr, addr ≠ bufferAddr base 0 → Memory.read addr t.mem = Memory.read addr s.mem) ∧
    (exec (.rxData b) s = .next t →
      s.payloadIndex < 128 ∧
      Memory.read (bufferAddr base s.payloadIndex) t.mem = some b ∧
      ∀ addr, addr ≠ bufferAddr base s.payloadIndex → Memory.read addr t.mem = Memory.read addr s.mem)

/-- R53: a payload index outside 0..127 is `F_ILLEGAL`. -/
def Obligations.IndexOutsideTheBufferFaults : Prop :=
  ∀ (s : State) (b : Byte), 128 ≤ s.len.toNat → exec (.rxData b) s = .fault .illegal

/-- 41_receive_fsm.md R130, 42_validator.md R154, R156: a checksum byte that equals the running sum, with `err` clear, is
accepted: `eseq` advances modulo 256, the call ends with `Packet`, nothing is sent. -/
def Obligations.MatchingChecksumAcceptsThePacket : Prop :=
  ∀ (s : State) (b : Byte), s.st = .awaitChecksum → b = s.csum → s.err = false →
    decode (.poll s.st (some b)) = .rxCks b ∧
    exec (.rxCks b) s = .next { s with
      st := .awaitStart, trSeen := true, eseq := s.eseq + 1#8, busy := false, res := some .packet, bound := none }

/-- 41_receive_fsm.md R130, 42_validator.md R155: a wrong checksum and a header error have one outcome: NAK, the call
goes on, `eseq` stays. -/
def Obligations.AnyErrorRejectsThePacket : Prop :=
  ∀ (s : State) (b : Byte), s.st = .awaitChecksum → b ≠ s.csum ∨ s.err = true →
    decode (.poll s.st (some b)) = .rxCks b ∧
    exec (.rxCks b) s = .next { s with st := .awaitStart, trSeen := true, tx := s.tx ++ [0x15#8] }

/-- 41_receive_fsm.md R122: a poll in `Idle` while busy is `F_ILLEGAL` for either answer. -/
def Obligations.PollInIdleFaults : Prop :=
  (∀ (s : State) (a : Answer), exec (.rxIllegal a) s = .fault .illegal) ∧
  (∀ s : State, s.running = true → s.hostWaits = true → s.st = .idle → step s = .fault .illegal)

/-! ### Who writes what: over all instructions -/

/-- No instruction but the two payload steps changes memory, which RECV's caller buffer is part of (R107, R50). -/
def Obligations.OnlyPayloadStepsStore : Prop :=
  ∀ (i : Instr) (s t : State), exec i s = .next t → (∀ b, i ≠ .rxD0 b) → (∀ b, i ≠ .rxData b) →
    t.mem = s.mem ∧ ∀ addr, Memory.read addr t.mem = Memory.read addr s.mem

/-- 40_commands.md R108: the transmit stream is written by START, ACK, the EOT step and the reject path, and by nothing
else. -/
def Obligations.FourActionsTransmit : Prop :=
  ∀ (i : Instr) (s t : State), exec i s = .next t →
    t.tx =
      match i with
      | .start => s.tx ++ [0x15#8]
      | .ack => s.tx ++ [0x06#8]
      | .rxEot => s.tx ++ [0x06#8]
      | .rxCks b => if b = s.csum ∧ s.err = false then s.tx else s.tx ++ [0x15#8]
      | _ => s.tx

/-- 10_state.md R24, 42_validator.md R156: `eseq` changes only by INIT, to 0, and by the accepting checksum step, by one
modulo 256 with the result `Packet`. -/
def Obligations.SequenceAdvancesOnlyOnAccept : Prop :=
  ∀ (i : Instr) (s t : State), exec i s = .next t →
    t.eseq = s.eseq ∨ (i = .init ∧ t.eseq = 0x00#8) ∨
    (i = .rxCks s.csum ∧ s.err = false ∧ t.eseq.toNat = (s.eseq.toNat + 1) % 256 ∧ t.res = some .packet)

/-- 10_state.md R26, R40: `err` is cleared only by SOH and set only by a sequence or a complement mismatch. -/
def Obligations.ErrorFlagWriters : Prop :=
  ∀ (i : Instr) (s t : State), exec i s = .next t →
    (s.err = true → t.err = false → i = .rxSoh) ∧
    (s.err = false → t.err = true →
      ∃ b, (i = .rxSeq b ∧ b ≠ s.eseq) ∨ (i = .rxComp b ∧ b ≠ 0xFF#8 - s.eseq))

/-- Which instructions write the other registers, and what they write: `sseq` (R25), `csum` (R27), `len` (R28), `nodata`
(R29), `tr_seen` (R30), `busy` (R31), `res` (R32), `init_done` (R34) and the bound buffer (R55). From the model, not the
spec: that INIT leaves `csum`, `len`, `nodata` and `tr_seen` (DESIGN CHOICE, unsafe, log entry 4), the form of the bound
buffer (log entry 5), and that no instruction touches the answers, the host's list and the count of free answers (log
entries 1 and 2). -/
def Obligations.RegisterWriters : Prop :=
  ∀ (i : Instr) (s t : State), exec i s = .next t →
    (i ≠ .init → t.sseq = s.sseq ∧ t.initDone = s.initDone) ∧
    ((∀ b, i ≠ .rxD0 b) → (∀ b, i ≠ .rxData b) → t.csum = s.csum ∧ t.len = s.len) ∧
    ((∀ buf, i ≠ .recv buf) → i ≠ .rxNone → t.nodata = s.nodata) ∧
    (s.trSeen = true → t.trSeen = false → ∃ buf, i = .recv buf) ∧
    (s.trSeen = false → t.trSeen = true →
      i = .rxSoh ∨ (t.st ≠ s.st ∧ i ≠ .init ∧ i ≠ .start ∧ i ≠ .ack ∧ ∀ buf, i ≠ .recv buf)) ∧
    (t.busy = true → s.busy = false → ∃ buf, i = .recv buf ∧ t.bound = some buf) ∧
    (s.busy = true → t.busy = false →
      (i = .init ∧ s.initDone = false) ∨ (i = .rxNone ∧ s.trSeen = false ∧ t.res = some .noTransfer) ∨
      (i = .rxEot ∧ t.res = some .finished) ∨ (∃ b, i = .rxCks b ∧ t.res = some .packet)) ∧
    (t.res = s.res ∨
      (t.res = none ∧ (i = .init ∨ i = .start ∨ i = .ack ∨ ∃ buf, i = .recv buf)) ∨
      (t.res = some .stateError ∧ s.st = .idle ∧ ∃ buf, i = .recv buf) ∨
      (t.res = some .noTransfer ∧ t.busy = false ∧ s.trSeen = false ∧ i = .rxNone) ∨
      (t.res = some .finished ∧ t.busy = false ∧ i = .rxEot) ∨
      (t.res = some .packet ∧ t.busy = false ∧ s.err = false ∧ i = .rxCks s.csum)) ∧
    (t.bound = s.bound ∨ (t.busy = true ∧ ∃ buf, i = .recv buf ∧ t.bound = some buf) ∨
      (t.busy = false ∧ t.bound = none)) ∧
    (t.rx = s.rx ∧ t.host = s.host ∧ t.draws = s.draws)

/-- R58, R63: a step sends at most one byte, and only ACK or NAK. -/
def Obligations.StepSendsAtMostOneControlByte : Prop :=
  ∀ s t : State, step s = .next t → t.tx = s.tx ∨ t.tx = s.tx ++ [0x06#8] ∨ t.tx = s.tx ++ [0x15#8]

/-- R51, R53, R58, R59: what a step does to memory. In a call, at most the polled byte at the address its payload step
computes, inside the bound buffer's 128 bytes; outside a call, only the host's own write. -/
def Obligations.StepStoresOnlyIntoTheBoundBuffer : Prop :=
  ∀ s t : State, step s = .next t →
    t.mem = s.mem ∨
    (∃ base b, s.running = true ∧ s.bound = some base ∧ s.rxPoll.1 = some b ∧
      ((s.st = .compSeqSeen ∧ t.mem = Memory.write (bufferAddr base 0) b s.mem) ∨
       (s.st = .accumulatingData ∧ s.payloadIndex < 128 ∧
         t.mem = Memory.write (bufferAddr base s.payloadIndex) b s.mem))) ∨
    (s.running = false ∧ ∃ addr v inputs, s.host = .write addr v :: inputs ∧ t.mem = Memory.write addr v s.mem)

/-! ### The call -/

/-- 41_receive_fsm.md R131: in every state of a call that a run can be in, and for every answer, a poll step completes
and goes to the state of the table. -/
def Obligations.PollStepFollowsTheNextStateTable : Prop :=
  ∀ s : State, s.Inv → s.running = true → s.hostWaits = true →
    ∃ t, step s = .next t ∧ t.st = nextProtocolState s.st s.rxPoll.1 s.len

/-- 41_receive_fsm.md R134, R178: a call in progress ends only by the reset input, an accepted checksum, EOT, or
`NoTransfer`, each with its result, its state, `eseq`, transmitted byte and memory (the reset: R190). -/
def Obligations.CallEndings : Prop :=
  ∀ s t : State, s.Inv → s.running = true → step s = .next t → t.busy = false →
    (t.res = none ∧ t.st = .idle ∧ t.eseq = 0x00#8 ∧ t.tx = s.tx ∧ t.mem = s.mem ∧
      ∃ inputs, s.host = .rst :: inputs) ∨
    (t.mem = s.mem ∧
      ((t.res = some .packet ∧ s.st = .awaitChecksum ∧ s.rxPoll.1 = some s.csum ∧ s.err = false ∧
          t.st = .awaitStart ∧ t.eseq = s.eseq + 1#8 ∧ t.tx = s.tx) ∨
       (t.res = some .finished ∧ s.st = .awaitStart ∧ s.rxPoll.1 = some 0x04#8 ∧
          t.st = .awaitStart ∧ t.eseq = s.eseq ∧ t.tx = s.tx ++ [0x06#8]) ∨
       (t.res = some .noTransfer ∧ s.trSeen = false ∧ s.rxPoll.1 = none ∧ Config.nodataThreshold < t.nodata ∧
          s.st = .awaitStart ∧ t.st = .awaitStart ∧ t.eseq = s.eseq ∧ t.tx = s.tx)))

/-- 41_receive_fsm.md R133, R198: once a transition has occurred in a call, no run of empty polls ends it. -/
def Obligations.SilenceAfterATransitionNeverEndsTheCall : Prop :=
  ∀ (k : Nat) (s : State) (rest : List Answer), s.Inv → s.running = true → s.hostWaits = true → s.trSeen = true →
    s.rx = List.replicate k none ++ rest →
    steps k s = .next { s with rx := rest, nodata := min (s.nodata + k) Config.nodataMax }

/-- 41_receive_fsm.md R121, R125 (D6): before a transition, empty polls and ignored bytes in any order leave the call
going while the empty polls of the call are at most the threshold; the next one ends it with `NoTransfer`. Ignored bytes
do not reset the count. -/
def Obligations.NoDataTimeoutCountsEmptyPolls : Prop :=
  ∀ (l rest : List Answer) (s : State), s.running = true → s.hostWaits = true → s.st = .awaitStart →
    s.trSeen = false → (∀ b, some b ∈ l → b ≠ 0x01#8 ∧ b ≠ 0x04#8) →
    s.nodata + l.count none ≤ Config.nodataThreshold →
    (s.rx = l ++ rest →
      steps l.length s = .next { s with rx := rest, nodata := s.nodata + l.count none }) ∧
    (s.rx = l ++ none :: rest → s.nodata + l.count none = Config.nodataThreshold →
      steps (l.length + 1) s = .next { s with
        rx := rest, nodata := Config.nodataThreshold + 1, busy := false, res := some .noTransfer, bound := none })

/-- 30_encoding.md R74, 41_receive_fsm.md R132, 42_validator.md R150, R154 (E1): from every state waiting for a packet, a
frame with the expected sequence, its complement, any 128 data bytes and their sum is taken in exactly 132 polls and
delivered: `Packet`, the data in the buffer, `eseq` advanced, nothing sent, no other byte of memory changed. -/
def Obligations.GoodFrameIsDelivered : Prop :=
  ∀ (s : State) (base : Nat) (d : List Byte) (rest : List Answer),
    s.running = true → s.hostWaits = true → s.st = .awaitStart → s.bound = some base → d.length = 128 →
    s.rx = frame s.eseq (0xFF#8 - s.eseq) d (checksumOf d) ++ rest →
    ∃ t, steps 132 s = .next t ∧ t.st = .awaitStart ∧ t.busy = false ∧ t.res = some .packet ∧
      t.eseq = s.eseq + 1#8 ∧ t.tx = s.tx ∧ t.rx = rest ∧ t.host = s.host ∧
      Memory.readBlock base t.mem 128 = some d ∧
      ∀ addr, addr < base ∨ base + 128 ≤ addr → Memory.read addr t.mem = Memory.read addr s.mem

/-- 41_receive_fsm.md R132, 42_validator.md R155, R160, 20_memory.md R56 (E2, E4, E5): from the same states, a frame with
any wrong sequence, complement or checksum is taken in exactly 132 polls and rejected: one NAK, `eseq` kept, the call
goes on; the rejected data stay in the buffer (D13). -/
def Obligations.BadFrameIsRejected : Prop :=
  ∀ (s : State) (base : Nat) (seq comp cks : Byte) (d : List Byte) (rest : List Answer),
    s.running = true → s.hostWaits = true → s.st = .awaitStart → s.bound = some base → d.length = 128 →
    ¬(seq = s.eseq ∧ comp = 0xFF#8 - s.eseq ∧ cks = checksumOf d) →
    s.rx = frame seq comp d cks ++ rest →
    ∃ t, steps 132 s = .next t ∧ t.st = .awaitStart ∧ t.busy = true ∧ t.res = s.res ∧ t.trSeen = true ∧
      t.eseq = s.eseq ∧ t.tx = s.tx ++ [0x15#8] ∧ t.rx = rest ∧ t.host = s.host ∧ t.bound = some base ∧
      Memory.readBlock base t.mem 128 = some d ∧
      ∀ addr, addr < base ∨ base + 128 ≤ addr → Memory.read addr t.mem = Memory.read addr s.mem

/-- 42_validator.md R150, R151: the wrapping sum is the sum reduced once, modulo 256. -/
def Obligations.ChecksumIsTheSumModulo256 : Prop :=
  ∀ d : List Byte, (checksumOf d).toNat = (d.map BitVec.toNat).sum % 256

/-- 42_validator.md R156: over any run without INIT and reset, `eseq` is advanced modulo 256 by exactly the number of
packets delivered. -/
def Obligations.SequenceCountsDeliveredPackets : Prop :=
  ∀ (k : Nat) (s t : State), s.initDone = true → s.host.all HostInput.keepsSequence = true → steps k s = .next t →
    t.eseq.toNat = (s.eseq.toNat + acceptedPackets k s) % 256

/-! ### The outcome of a run -/

/-- 70_reset_and_hazards.md R201: a finished run keeps its outcome, however many steps follow: the results of its calls
and their buffers, the transmit stream, `st`, `eseq` and `sseq`. A buffer is observed as its call left it (DEDUCED, log
entry 21). A run with a reset still to come counts as unfinished (DESIGN CHOICE, log entry 22). -/
def Obligations.FinishedRunKeepsItsOutcome : Prop :=
  ∀ (k j : Nat) (s : State) (o : RunOutcome), s.holdsReserved = false →
    runOutcome k s = some o → runOutcome (k + j) s = some o

/-- 70_reset_and_hazards.md R201, 42_validator.md R154, R155: what a frame adds to the calls of a run. From every state
waiting for a packet, a frame that passes the checks ends the call: recorded with its buffer, `Packet` and the data
(DEDUCED, log entry 21). One with any error records nothing: the call goes on. -/
def Obligations.RunRecordsAcceptedFramesOnly : Prop :=
  ∀ (s : State) (base : Nat) (seq comp cks : Byte) (d : List Byte) (rest : List Answer),
    s.running = true → s.hostWaits = true → s.st = .awaitStart → s.bound = some base → d.length = 128 →
    s.rx = frame seq comp d cks ++ rest →
    runCalls 132 s =
      if seq = s.eseq ∧ comp = 0xFF#8 - s.eseq ∧ cks = checksumOf d then
        [{ buf := base, result := some .packet, contents := d.map some }]
      else []

/-- 70_reset_and_hazards.md R201, 60_exceptions.md R172, 42_validator.md R156: the calls of a run agree with what its steps
do. From every state that meets the invariant, the `Packet` results recorded in `k` steps are as many as the packets
delivered, by which `eseq` advances; and a `RECV` taken in `Idle` is a call recorded at once, with `StateError` and its
buffer as it was (DEDUCED, log entry 21). -/
def Obligations.RunRecordsMatchTheSteps : Prop :=
  (∀ (k : Nat) (s : State), s.Inv →
    ((runCalls k s).filterMap CallRecord.result).count .packet = acceptedPackets k s) ∧
  (∀ (s : State) (buf : Nat) (inputs : List HostInput), s.initDone = true → s.busy = false → s.st = .idle →
    s.host = .cmd 0b11#2 buf :: inputs →
    runCalls 1 s = [{ buf := buf, result := some .stateError, contents := s.bufferContents buf }])

/-- 70_reset_and_hazards.md R201, 20_memory.md R56, 42_validator.md R154: in every run from a state that meets the two
invariants, a call recorded with `Packet` was ended by a step in `AwaitChecksum` with `err` clear, which polled the checksum
of the 128 bytes its buffer holds, observed as the call left it (DEDUCED, log entry 21). -/
def Obligations.EveryPacketRecordHoldsAPayload : Prop :=
  ∀ (k : Nat) (s : State) (c : CallRecord), s.Inv → s.PayloadInv → c ∈ runCalls k s → c.result = some .packet →
    ∃ (d : List Byte) (j : Nat) (u : State), d.length = 128 ∧ c.contents = d.map some ∧
      j < k ∧ steps j s = .next u ∧ u.st = .awaitChecksum ∧ u.err = false ∧ u.bound = some c.buf ∧
      u.rxPoll.1 = some (checksumOf d)

/-! ### Invariants -/

/-- The invariant holds after reset. -/
def Obligations.InvariantHoldsAtReset : Prop := State.reset.Inv

/-- 10_state.md R37, R38, R25, 20_memory.md R55: every step keeps the invariant, from every state that meets it. -/
def Obligations.StepKeepsTheInvariant : Prop :=
  ∀ s t : State, s.Inv → step s = .next t → t.Inv

/-- 42_validator.md R151: every step keeps the running-sum invariant. -/
def Obligations.StepKeepsTheRunningSum : Prop :=
  ∀ s t : State, s.Inv → s.PayloadInv → step s = .next t → t.PayloadInv

/-- 20_memory.md R56, 42_validator.md R154: a `Packet` result means the call's buffer holds 128 bytes whose sum is the
checksum byte just polled, and no header error was noted. -/
def Obligations.PacketResultMeansAChecksummedPayload : Prop :=
  ∀ s t : State, s.Inv → s.PayloadInv → s.running = true → step s = .next t → t.res = some .packet →
    ∃ base d, s.bound = some base ∧ d.length = 128 ∧ Memory.readBlock base t.mem 128 = some d ∧
      s.rxPoll.1 = some (checksumOf d) ∧ s.err = false

/-- 70_reset_and_hazards.md R192: between commands, other values of `err`, `csum`, `len`, `nodata`, `tr_seen` make no
difference that any port, stream or byte of memory shows, however many steps follow. -/
def Obligations.WorkingRegistersAreNeverObserved : Prop :=
  ∀ (k : Nat) (s : State) (err trSeen : Bool) (csum len : Byte) (nodata : Nat),
    s.initDone = true → s.busy = false → s.st = .idle ∨ s.st = .awaitStart →
    andThen (steps k { s with err := err, csum := csum, len := len, nodata := nodata, trSeen := trSeen })
        State.hideWorking =
      andThen (steps k s) State.hideWorking
end

