-- ==== Sys2Proof/Laws/Decode.lean ====
section
/-! SUPPORT. The cases of the decoder, said once. -/

namespace Sys2Proof

/-- The four command codes are all there are (30_encoding.md R71). -/
theorem cmdCode_cases (c : BitVec 2) : c = 0b00#2 ∨ c = 0b01#2 ∨ c = 0b10#2 ∨ c = 0b11#2 := by
  revert c
  decide

/-- A byte polled in `AwaitStart` is SOH, EOT or ignored (R75). -/
theorem decodeStartByte_cases (b : Byte) :
    (b = soh ∧ decodeStartByte b = .rxSoh) ∨ (b = eot ∧ decodeStartByte b = .rxEot) ∨
    (b ≠ soh ∧ b ≠ eot ∧ decodeStartByte b = .rxIgnore b) := by
  by_cases h1 : b = soh
  · exact .inl ⟨h1, by simp [decodeStartByte, h1]⟩
  · by_cases h2 : b = eot
    · exact .inr (.inl ⟨h2, by simp only [decodeStartByte, if_neg h1, if_pos h2]⟩)
    · exact .inr (.inr ⟨h1, h2, by simp only [decodeStartByte, if_neg h1, if_neg h2]⟩)

end Sys2Proof
end

