-- ==== Sys2Proof/Laws/Memory.lean ====
section
/-! SUPPORT. The laws of the memory: a write is read back, leaves every other place alone, and keeps the canonical form. -/

namespace Sys2Proof.Machine.Memory

/-- A byte written is read back. -/
theorem read_write_same (a : Nat) (v : Byte) (m : List Host.Cell) : read a (write a v m) = some v := by
  induction m with
  | nil => simp [write, read]
  | cons c m ih =>
    obtain ⟨b, w⟩ := c
    simp only [write]
    split
    · simp [read]
    · split
      · simp [read]
      · simp [read, *]

/-- A write leaves every other address as it was. -/
theorem read_write_other {a a' : Nat} (h : a' ≠ a) (v : Byte) (m : List Host.Cell) :
    read a' (write a v m) = read a' m := by
  induction m with
  | nil => simp [write, read, h]
  | cons c m ih =>
    obtain ⟨b, w⟩ := c
    simp only [write]
    split
    · simp [read, h]
    · split
      · next h2 => subst h2; simp [read, h]
      · simp [read, ih]

/-- A write at or above the bound keeps the rising form above it. -/
theorem wfFrom_write {lo a : Nat} (v : Byte) (m : List Host.Cell) (ha : lo ≤ a) (hm : wfFrom lo m = true) :
    wfFrom lo (write a v m) = true := by
  induction m generalizing lo with
  | nil => simp [write, wfFrom, ha]
  | cons c m ih =>
    obtain ⟨b, w⟩ := c
    simp only [wfFrom, Bool.and_eq_true, decide_eq_true_eq] at hm
    simp only [write]
    split
    · next h => simp [wfFrom, ha, hm.2]; omega
    · split
      · next h => subst h; simp [wfFrom, ha, hm.2]
      · simp only [wfFrom, Bool.and_eq_true, decide_eq_true_eq]
        exact ⟨hm.1, ih (by omega) hm.2⟩

/-- Every write keeps the canonical form. -/
theorem wf_write (a : Nat) (v : Byte) {m : List Host.Cell} (hm : wf m = true) : wf (write a v m) = true :=
  wfFrom_write v m (Nat.zero_le a) hm

/-- A block is read back unchanged after a write outside it. -/
theorem readBlock_write_outside (base n a : Nat) (v : Byte) (m : List Host.Cell) (h : a < base ∨ base + n ≤ a) :
    readBlock base (write a v m) n = readBlock base m n := by
  induction n with
  | zero => rfl
  | succ n ih =>
    have h1 : a < base ∨ base + n ≤ a := by omega
    simp only [readBlock, ih h1, read_write_other (show base + n ≠ a by omega)]

/-- A write just past a block extends it by the byte written. -/
theorem readBlock_write_next {base n : Nat} {v : Byte} {m : List Host.Cell} {d : List Byte}
    (h : readBlock base m n = some d) : readBlock base (write (base + n) v m) (n + 1) = some (d ++ [v]) := by
  simp [readBlock, readBlock_write_outside base n (base + n) v m (.inr (Nat.le_refl _)), h, read_write_same]

/-- A block that reads has as many bytes as were asked for. -/
theorem readBlock_length {base n : Nat} {m : List Host.Cell} {d : List Byte} (h : readBlock base m n = some d) :
    d.length = n := by
  induction n generalizing d with
  | zero => simp [readBlock] at h; simp [← h]
  | succ n ih =>
    simp only [readBlock] at h
    split at h
    · next bs b h1 h2 =>
      cases h
      simp [ih h1]
    · cases h

end Sys2Proof.Machine.Memory
end

