-- ==== Sys2Proof/Laws/State.lean ====
section
/-! SUPPORT. One lemma per field per named update of State, so that no proof unfolds a record update. -/

namespace Sys2Proof.Machine

variable (s : State)

@[simp] theorem State.transmit_st (v : Byte) : (s.transmit v).st = s.st := rfl
@[simp] theorem State.transmit_eseq (v : Byte) : (s.transmit v).eseq = s.eseq := rfl
@[simp] theorem State.transmit_sseq (v : Byte) : (s.transmit v).sseq = s.sseq := rfl
@[simp] theorem State.transmit_err (v : Byte) : (s.transmit v).err = s.err := rfl
@[simp] theorem State.transmit_csum (v : Byte) : (s.transmit v).csum = s.csum := rfl
@[simp] theorem State.transmit_len (v : Byte) : (s.transmit v).len = s.len := rfl
@[simp] theorem State.transmit_nodata (v : Byte) : (s.transmit v).nodata = s.nodata := rfl
@[simp] theorem State.transmit_trSeen (v : Byte) : (s.transmit v).trSeen = s.trSeen := rfl
@[simp] theorem State.transmit_busy (v : Byte) : (s.transmit v).busy = s.busy := rfl
@[simp] theorem State.transmit_res (v : Byte) : (s.transmit v).res = s.res := rfl
@[simp] theorem State.transmit_initDone (v : Byte) : (s.transmit v).initDone = s.initDone := rfl
@[simp] theorem State.transmit_bound (v : Byte) : (s.transmit v).bound = s.bound := rfl
@[simp] theorem State.transmit_mem (v : Byte) : (s.transmit v).mem = s.mem := rfl
@[simp] theorem State.transmit_tx (v : Byte) : (s.transmit v).tx = s.tx ++ [v] := rfl
@[simp] theorem State.transmit_rx (v : Byte) : (s.transmit v).rx = s.rx := rfl
@[simp] theorem State.transmit_host (v : Byte) : (s.transmit v).host = s.host := rfl
@[simp] theorem State.transmit_draws (v : Byte) : (s.transmit v).draws = s.draws := rfl

@[simp] theorem State.moveTo_st (p : PState) : (s.moveTo p).st = p := rfl
@[simp] theorem State.moveTo_eseq (p : PState) : (s.moveTo p).eseq = s.eseq := rfl
@[simp] theorem State.moveTo_sseq (p : PState) : (s.moveTo p).sseq = s.sseq := rfl
@[simp] theorem State.moveTo_err (p : PState) : (s.moveTo p).err = s.err := rfl
@[simp] theorem State.moveTo_csum (p : PState) : (s.moveTo p).csum = s.csum := rfl
@[simp] theorem State.moveTo_len (p : PState) : (s.moveTo p).len = s.len := rfl
@[simp] theorem State.moveTo_nodata (p : PState) : (s.moveTo p).nodata = s.nodata := rfl
@[simp] theorem State.moveTo_trSeen (p : PState) : (s.moveTo p).trSeen = (s.trSeen || decide (p ≠ s.st)) := rfl
@[simp] theorem State.moveTo_busy (p : PState) : (s.moveTo p).busy = s.busy := rfl
@[simp] theorem State.moveTo_res (p : PState) : (s.moveTo p).res = s.res := rfl
@[simp] theorem State.moveTo_initDone (p : PState) : (s.moveTo p).initDone = s.initDone := rfl
@[simp] theorem State.moveTo_bound (p : PState) : (s.moveTo p).bound = s.bound := rfl
@[simp] theorem State.moveTo_mem (p : PState) : (s.moveTo p).mem = s.mem := rfl
@[simp] theorem State.moveTo_tx (p : PState) : (s.moveTo p).tx = s.tx := rfl
@[simp] theorem State.moveTo_rx (p : PState) : (s.moveTo p).rx = s.rx := rfl
@[simp] theorem State.moveTo_host (p : PState) : (s.moveTo p).host = s.host := rfl
@[simp] theorem State.moveTo_draws (p : PState) : (s.moveTo p).draws = s.draws := rfl

@[simp] theorem State.complete_st (c : Res) : (s.complete c).st = s.st := rfl
@[simp] theorem State.complete_eseq (c : Res) : (s.complete c).eseq = s.eseq := rfl
@[simp] theorem State.complete_sseq (c : Res) : (s.complete c).sseq = s.sseq := rfl
@[simp] theorem State.complete_err (c : Res) : (s.complete c).err = s.err := rfl
@[simp] theorem State.complete_csum (c : Res) : (s.complete c).csum = s.csum := rfl
@[simp] theorem State.complete_len (c : Res) : (s.complete c).len = s.len := rfl
@[simp] theorem State.complete_nodata (c : Res) : (s.complete c).nodata = s.nodata := rfl
@[simp] theorem State.complete_trSeen (c : Res) : (s.complete c).trSeen = s.trSeen := rfl
@[simp] theorem State.complete_busy (c : Res) : (s.complete c).busy = false := rfl
@[simp] theorem State.complete_res (c : Res) : (s.complete c).res = some c := rfl
@[simp] theorem State.complete_initDone (c : Res) : (s.complete c).initDone = s.initDone := rfl
@[simp] theorem State.complete_bound (c : Res) : (s.complete c).bound = none := rfl
@[simp] theorem State.complete_mem (c : Res) : (s.complete c).mem = s.mem := rfl
@[simp] theorem State.complete_tx (c : Res) : (s.complete c).tx = s.tx := rfl
@[simp] theorem State.complete_rx (c : Res) : (s.complete c).rx = s.rx := rfl
@[simp] theorem State.complete_host (c : Res) : (s.complete c).host = s.host := rfl
@[simp] theorem State.complete_draws (c : Res) : (s.complete c).draws = s.draws := rfl

@[simp] theorem State.initialise_st : (s.initialise).st = .idle := rfl
@[simp] theorem State.initialise_eseq : (s.initialise).eseq = 0x00#8 := rfl
@[simp] theorem State.initialise_sseq : (s.initialise).sseq = 0x00#8 := rfl
@[simp] theorem State.initialise_err : (s.initialise).err = s.err := rfl
@[simp] theorem State.initialise_csum : (s.initialise).csum = s.csum := rfl
@[simp] theorem State.initialise_len : (s.initialise).len = s.len := rfl
@[simp] theorem State.initialise_nodata : (s.initialise).nodata = s.nodata := rfl
@[simp] theorem State.initialise_trSeen : (s.initialise).trSeen = s.trSeen := rfl
@[simp] theorem State.initialise_busy : (s.initialise).busy = false := rfl
@[simp] theorem State.initialise_res : (s.initialise).res = none := rfl
@[simp] theorem State.initialise_initDone : (s.initialise).initDone = true := rfl
@[simp] theorem State.initialise_bound : (s.initialise).bound = none := rfl
@[simp] theorem State.initialise_mem : (s.initialise).mem = s.mem := rfl
@[simp] theorem State.initialise_tx : (s.initialise).tx = s.tx := rfl
@[simp] theorem State.initialise_rx : (s.initialise).rx = s.rx := rfl
@[simp] theorem State.initialise_host : (s.initialise).host = s.host := rfl
@[simp] theorem State.initialise_draws : (s.initialise).draws = s.draws := rfl

@[simp] theorem State.beginCall_st (buf : Nat) : (s.beginCall buf).st = s.st := rfl
@[simp] theorem State.beginCall_eseq (buf : Nat) : (s.beginCall buf).eseq = s.eseq := rfl
@[simp] theorem State.beginCall_sseq (buf : Nat) : (s.beginCall buf).sseq = s.sseq := rfl
@[simp] theorem State.beginCall_err (buf : Nat) : (s.beginCall buf).err = s.err := rfl
@[simp] theorem State.beginCall_csum (buf : Nat) : (s.beginCall buf).csum = s.csum := rfl
@[simp] theorem State.beginCall_len (buf : Nat) : (s.beginCall buf).len = s.len := rfl
@[simp] theorem State.beginCall_nodata (buf : Nat) : (s.beginCall buf).nodata = 0 := rfl
@[simp] theorem State.beginCall_trSeen (buf : Nat) : (s.beginCall buf).trSeen = false := rfl
@[simp] theorem State.beginCall_busy (buf : Nat) : (s.beginCall buf).busy = true := rfl
@[simp] theorem State.beginCall_res (buf : Nat) : (s.beginCall buf).res = s.res := rfl
@[simp] theorem State.beginCall_initDone (buf : Nat) : (s.beginCall buf).initDone = s.initDone := rfl
@[simp] theorem State.beginCall_bound (buf : Nat) : (s.beginCall buf).bound = some buf := rfl
@[simp] theorem State.beginCall_mem (buf : Nat) : (s.beginCall buf).mem = s.mem := rfl
@[simp] theorem State.beginCall_tx (buf : Nat) : (s.beginCall buf).tx = s.tx := rfl
@[simp] theorem State.beginCall_rx (buf : Nat) : (s.beginCall buf).rx = s.rx := rfl
@[simp] theorem State.beginCall_host (buf : Nat) : (s.beginCall buf).host = s.host := rfl
@[simp] theorem State.beginCall_draws (buf : Nat) : (s.beginCall buf).draws = s.draws := rfl

@[simp] theorem State.noteCheck_st (ok : Bool) : (s.noteCheck ok).st = s.st := rfl
@[simp] theorem State.noteCheck_eseq (ok : Bool) : (s.noteCheck ok).eseq = s.eseq := rfl
@[simp] theorem State.noteCheck_sseq (ok : Bool) : (s.noteCheck ok).sseq = s.sseq := rfl
@[simp] theorem State.noteCheck_err (ok : Bool) : (s.noteCheck ok).err = (s.err || !ok) := rfl
@[simp] theorem State.noteCheck_csum (ok : Bool) : (s.noteCheck ok).csum = s.csum := rfl
@[simp] theorem State.noteCheck_len (ok : Bool) : (s.noteCheck ok).len = s.len := rfl
@[simp] theorem State.noteCheck_nodata (ok : Bool) : (s.noteCheck ok).nodata = s.nodata := rfl
@[simp] theorem State.noteCheck_trSeen (ok : Bool) : (s.noteCheck ok).trSeen = s.trSeen := rfl
@[simp] theorem State.noteCheck_busy (ok : Bool) : (s.noteCheck ok).busy = s.busy := rfl
@[simp] theorem State.noteCheck_res (ok : Bool) : (s.noteCheck ok).res = s.res := rfl
@[simp] theorem State.noteCheck_initDone (ok : Bool) : (s.noteCheck ok).initDone = s.initDone := rfl
@[simp] theorem State.noteCheck_bound (ok : Bool) : (s.noteCheck ok).bound = s.bound := rfl
@[simp] theorem State.noteCheck_mem (ok : Bool) : (s.noteCheck ok).mem = s.mem := rfl
@[simp] theorem State.noteCheck_tx (ok : Bool) : (s.noteCheck ok).tx = s.tx := rfl
@[simp] theorem State.noteCheck_rx (ok : Bool) : (s.noteCheck ok).rx = s.rx := rfl
@[simp] theorem State.noteCheck_host (ok : Bool) : (s.noteCheck ok).host = s.host := rfl
@[simp] theorem State.noteCheck_draws (ok : Bool) : (s.noteCheck ok).draws = s.draws := rfl

@[simp] theorem State.hostWrite_st (addr : Nat) (v : Byte) : (s.hostWrite addr v).st = s.st := rfl
@[simp] theorem State.hostWrite_eseq (addr : Nat) (v : Byte) : (s.hostWrite addr v).eseq = s.eseq := rfl
@[simp] theorem State.hostWrite_sseq (addr : Nat) (v : Byte) : (s.hostWrite addr v).sseq = s.sseq := rfl
@[simp] theorem State.hostWrite_err (addr : Nat) (v : Byte) : (s.hostWrite addr v).err = s.err := rfl
@[simp] theorem State.hostWrite_csum (addr : Nat) (v : Byte) : (s.hostWrite addr v).csum = s.csum := rfl
@[simp] theorem State.hostWrite_len (addr : Nat) (v : Byte) : (s.hostWrite addr v).len = s.len := rfl
@[simp] theorem State.hostWrite_nodata (addr : Nat) (v : Byte) : (s.hostWrite addr v).nodata = s.nodata := rfl
@[simp] theorem State.hostWrite_trSeen (addr : Nat) (v : Byte) : (s.hostWrite addr v).trSeen = s.trSeen := rfl
@[simp] theorem State.hostWrite_busy (addr : Nat) (v : Byte) : (s.hostWrite addr v).busy = s.busy := rfl
@[simp] theorem State.hostWrite_res (addr : Nat) (v : Byte) : (s.hostWrite addr v).res = s.res := rfl
@[simp] theorem State.hostWrite_initDone (addr : Nat) (v : Byte) : (s.hostWrite addr v).initDone = s.initDone := rfl
@[simp] theorem State.hostWrite_bound (addr : Nat) (v : Byte) : (s.hostWrite addr v).bound = s.bound := rfl
@[simp] theorem State.hostWrite_mem (addr : Nat) (v : Byte) : (s.hostWrite addr v).mem = Memory.write addr v s.mem := rfl
@[simp] theorem State.hostWrite_tx (addr : Nat) (v : Byte) : (s.hostWrite addr v).tx = s.tx := rfl
@[simp] theorem State.hostWrite_rx (addr : Nat) (v : Byte) : (s.hostWrite addr v).rx = s.rx := rfl
@[simp] theorem State.hostWrite_host (addr : Nat) (v : Byte) : (s.hostWrite addr v).host = s.host := rfl
@[simp] theorem State.hostWrite_draws (addr : Nat) (v : Byte) : (s.hostWrite addr v).draws = s.draws := rfl

@[simp] theorem State.finishTransfer_st (p : PState) : (s.finishTransfer p).st = p := rfl
@[simp] theorem State.finishTransfer_eseq (p : PState) : (s.finishTransfer p).eseq = s.eseq := rfl
@[simp] theorem State.finishTransfer_sseq (p : PState) : (s.finishTransfer p).sseq = s.sseq := rfl
@[simp] theorem State.finishTransfer_err (p : PState) : (s.finishTransfer p).err = s.err := rfl
@[simp] theorem State.finishTransfer_csum (p : PState) : (s.finishTransfer p).csum = s.csum := rfl
@[simp] theorem State.finishTransfer_len (p : PState) : (s.finishTransfer p).len = s.len := rfl
@[simp] theorem State.finishTransfer_nodata (p : PState) : (s.finishTransfer p).nodata = s.nodata := rfl
@[simp] theorem State.finishTransfer_trSeen (p : PState) : (s.finishTransfer p).trSeen = (s.trSeen || decide (p ≠ s.st)) := rfl
@[simp] theorem State.finishTransfer_busy (p : PState) : (s.finishTransfer p).busy = false := rfl
@[simp] theorem State.finishTransfer_res (p : PState) : (s.finishTransfer p).res = some .finished := rfl
@[simp] theorem State.finishTransfer_initDone (p : PState) : (s.finishTransfer p).initDone = s.initDone := rfl
@[simp] theorem State.finishTransfer_bound (p : PState) : (s.finishTransfer p).bound = none := rfl
@[simp] theorem State.finishTransfer_mem (p : PState) : (s.finishTransfer p).mem = s.mem := rfl
@[simp] theorem State.finishTransfer_tx (p : PState) : (s.finishTransfer p).tx = s.tx ++ [ackByte] := rfl
@[simp] theorem State.finishTransfer_rx (p : PState) : (s.finishTransfer p).rx = s.rx := rfl
@[simp] theorem State.finishTransfer_host (p : PState) : (s.finishTransfer p).host = s.host := rfl
@[simp] theorem State.finishTransfer_draws (p : PState) : (s.finishTransfer p).draws = s.draws := rfl

@[simp] theorem State.acceptPacket_st : (s.acceptPacket).st = s.st := rfl
@[simp] theorem State.acceptPacket_eseq : (s.acceptPacket).eseq = s.eseq + 0x01#8 := rfl
@[simp] theorem State.acceptPacket_sseq : (s.acceptPacket).sseq = s.sseq := rfl
@[simp] theorem State.acceptPacket_err : (s.acceptPacket).err = s.err := rfl
@[simp] theorem State.acceptPacket_csum : (s.acceptPacket).csum = s.csum := rfl
@[simp] theorem State.acceptPacket_len : (s.acceptPacket).len = s.len := rfl
@[simp] theorem State.acceptPacket_nodata : (s.acceptPacket).nodata = s.nodata := rfl
@[simp] theorem State.acceptPacket_trSeen : (s.acceptPacket).trSeen = s.trSeen := rfl
@[simp] theorem State.acceptPacket_busy : (s.acceptPacket).busy = false := rfl
@[simp] theorem State.acceptPacket_res : (s.acceptPacket).res = some .packet := rfl
@[simp] theorem State.acceptPacket_initDone : (s.acceptPacket).initDone = s.initDone := rfl
@[simp] theorem State.acceptPacket_bound : (s.acceptPacket).bound = none := rfl
@[simp] theorem State.acceptPacket_mem : (s.acceptPacket).mem = s.mem := rfl
@[simp] theorem State.acceptPacket_tx : (s.acceptPacket).tx = s.tx := rfl
@[simp] theorem State.acceptPacket_rx : (s.acceptPacket).rx = s.rx := rfl
@[simp] theorem State.acceptPacket_host : (s.acceptPacket).host = s.host := rfl
@[simp] theorem State.acceptPacket_draws : (s.acceptPacket).draws = s.draws := rfl

@[simp] theorem State.rejectPacket_st : (s.rejectPacket).st = s.st := rfl
@[simp] theorem State.rejectPacket_eseq : (s.rejectPacket).eseq = s.eseq := rfl
@[simp] theorem State.rejectPacket_sseq : (s.rejectPacket).sseq = s.sseq := rfl
@[simp] theorem State.rejectPacket_err : (s.rejectPacket).err = s.err := rfl
@[simp] theorem State.rejectPacket_csum : (s.rejectPacket).csum = s.csum := rfl
@[simp] theorem State.rejectPacket_len : (s.rejectPacket).len = s.len := rfl
@[simp] theorem State.rejectPacket_nodata : (s.rejectPacket).nodata = s.nodata := rfl
@[simp] theorem State.rejectPacket_trSeen : (s.rejectPacket).trSeen = s.trSeen := rfl
@[simp] theorem State.rejectPacket_busy : (s.rejectPacket).busy = s.busy := rfl
@[simp] theorem State.rejectPacket_res : (s.rejectPacket).res = s.res := rfl
@[simp] theorem State.rejectPacket_initDone : (s.rejectPacket).initDone = s.initDone := rfl
@[simp] theorem State.rejectPacket_bound : (s.rejectPacket).bound = s.bound := rfl
@[simp] theorem State.rejectPacket_mem : (s.rejectPacket).mem = s.mem := rfl
@[simp] theorem State.rejectPacket_tx : (s.rejectPacket).tx = s.tx ++ [nakByte] := rfl
@[simp] theorem State.rejectPacket_rx : (s.rejectPacket).rx = s.rx := rfl
@[simp] theorem State.rejectPacket_host : (s.rejectPacket).host = s.host := rfl
@[simp] theorem State.rejectPacket_draws : (s.rejectPacket).draws = s.draws := rfl

end Sys2Proof.Machine
end

