-- ==== Sys2Proof/Laws/Ops.lean ====
section
/-! SUPPORT. For each shared operation, once, everything it can do; callers cite these and do not unfold it. -/

namespace Sys2Proof.Machine

/-- The counter is wide enough to pass the threshold (R7, D8). -/
theorem threshold_lt_nodataMax : Config.nodataThreshold + 1 ≤ Config.nodataMax := by
  have h : Config.nodataThreshold + 1 < 2 ^ Config.nodataWidth := by
    calc Config.nodataThreshold + 1 < 2 ^ (Nat.log2 (Config.nodataThreshold + 1) + 1) := Nat.lt_log2_self
      _ ≤ 2 ^ Config.nodataWidth := Nat.pow_le_pow_right (by omega) (by simp [Config.nodataWidth])
  simp only [Config.nodataMax]
  omega

/-- What `andThen` can answer with a next state. -/
theorem andThen_next {o : StepResult} {k : State → State} {t : State} (h : andThen o k = .next t) :
    ∃ u, o = .next u ∧ t = k u := by
  cases o with
  | next u => exact ⟨u, rfl, by simpa [andThen] using h.symm⟩
  | fault r => cases h
  | refused r => cases h

/-- An accepted command: initialised, not busy, and its effect on the state with the result cleared (R104 to R106). -/
theorem State.accept_next {s t : State} {k : State → State} (h : s.accept k = .next t) :
    s.initDone = true ∧ s.busy = false ∧ t = k { s with res := none } := by
  simp only [State.accept] at h
  split at h
  · cases h
  · split at h
    · cases h
    · next h1 h2 => exact ⟨by simpa using h1, by simpa using h2, by simpa using h.symm⟩

/-- An accepted INIT (R100, R105). -/
theorem State.acceptInit_next {s t : State} {k : State → State} (h : s.acceptInit k = .next t) :
    s.running = false ∧ t = k s := by
  simp only [State.acceptInit] at h
  split at h
  · cases h
  · next h1 => exact ⟨by simpa [State.running] using h1, by simpa using h.symm⟩

/-- A buffer write that happens: the index is in range and the byte lands in the bound buffer (R53). -/
theorem State.bufWrite_next {s t : State} {i : Nat} {v : Byte} (h : s.bufWrite i v = .next t) :
    i < 128 ∧ ∃ base, s.bound = some base ∧ t = { s with mem := Memory.write (base + i) v s.mem } := by
  simp only [State.bufWrite] at h
  split at h
  · next hi =>
    split at h
    · next base hb => exact ⟨hi, base, hb, by simpa [bufferAddr] using h.symm⟩
    · cases h
  · cases h

/-- A buffer write with the index in range and a buffer bound happens (R53). -/
theorem State.bufWrite_of_bound {s : State} {i base : Nat} (v : Byte) (hi : i < 128) (hb : s.bound = some base) :
    s.bufWrite i v = .next { s with mem := Memory.write (base + i) v s.mem } := by
  simp [State.bufWrite, payloadLen, hi, hb, bufferAddr]

/-- A poll consumes the next listed answer (R62). -/
theorem State.rxPoll_cons {s : State} {a : Answer} {rest : List Answer} (h : s.rx = a :: rest) :
    s.rxPoll = (a, { s with rx := rest }) := by
  simp [State.rxPoll, h]

/-- A poll changes the receive stream and the count of free answers, nothing else. -/
theorem State.rxPoll_state (s : State) : ∃ rx draws, s.rxPoll.2 = { s with rx := rx, draws := draws } := by
  simp only [State.rxPoll]
  split
  · exact ⟨_, _, rfl⟩
  · exact ⟨_, _, rfl⟩

/-- An empty poll counts, and ends the call or does nothing else (R121). -/
theorem State.emptyPoll_cases (s : State) (threshold greatest : Nat) :
    s.trSeen = false ∧ threshold < min (s.nodata + 1) greatest ∧
      s.emptyPoll threshold greatest = { s with nodata := min (s.nodata + 1) greatest }.complete .noTransfer ∨
    ¬(s.trSeen = false ∧ threshold < min (s.nodata + 1) greatest) ∧
      s.emptyPoll threshold greatest = { s with nodata := min (s.nodata + 1) greatest } := by
  by_cases h : s.trSeen = false ∧ threshold < min (s.nodata + 1) greatest
  · exact .inl ⟨h.1, h.2, by simp only [State.emptyPoll, if_pos h]⟩
  · exact .inr ⟨h, by simp only [State.emptyPoll, if_neg h]⟩

/-- Appending a byte to the summed ones adds it (R151). -/
theorem checksumOf_append (d : List Byte) (b : Byte) : checksumOf (d ++ [b]) = addChecksum (checksumOf d) b := by
  simp [checksumOf]

end Sys2Proof.Machine
end

