-- ==== Sys2Proof/Laws/PerInstr.lean ====
section
/-! SUPPORT. Statements made per instruction about it as syntax: the port its encoding stands on (30_encoding.md R70, R71, R75). -/

namespace Sys2Proof.Laws

/-- The instruction is a host command (R71), not a receive event (R75). -/
def isCommand : Instr → Bool
  | .init => true
  | .start => true
  | .ack => true
  | .recv _ => true
  | .rxNone => false
  | .rxSoh => false
  | .rxEot => false
  | .rxIgnore _ => false
  | .rxSeq _ => false
  | .rxComp _ => false
  | .rxD0 _ => false
  | .rxData _ => false
  | .rxCks _ => false
  | .rxIllegal _ => false

/-- The event comes in on the command port. -/
def onCommandPort : Event → Bool
  | .cmd _ _ => true
  | .poll _ _ => false

namespace EncodingPort

/-- An instruction is encoded on the command port exactly when it is a host command. -/
def Statement (i : Instr) : Prop := onCommandPort (encode i) = isCommand i

theorem init : Statement .init := rfl
theorem start : Statement .start := rfl
theorem ack : Statement .ack := rfl
theorem recv (buf : Nat) : Statement (.recv buf) := rfl
theorem rxNone : Statement .rxNone := rfl
theorem rxSoh : Statement .rxSoh := rfl
theorem rxEot : Statement .rxEot := rfl
theorem rxIgnore (b : Byte) : Statement (.rxIgnore b) := rfl
theorem rxSeq (b : Byte) : Statement (.rxSeq b) := rfl
theorem rxComp (b : Byte) : Statement (.rxComp b) := rfl
theorem rxD0 (b : Byte) : Statement (.rxD0 b) := rfl
theorem rxData (b : Byte) : Statement (.rxData b) := rfl
theorem rxCks (b : Byte) : Statement (.rxCks b) := rfl
theorem rxIllegal (a : Answer) : Statement (.rxIllegal a) := rfl

end EncodingPort

end Sys2Proof.Laws
end

