-- ==== Sys2Proof/Laws/Step.lean ====
section
/-! SUPPORT. What a step can do, said once: the storing meanings, the fetch, and the step by what it fetches. -/

namespace Sys2Proof.Machine

/-- Everything `RX_D0` can do with a next state (R128). -/
theorem execRxD0_next {b : Byte} {s t : State} (h : execRxD0 b s = .next t) :
    ∃ base, s.bound = some base ∧
      t = { s with mem := Memory.write base b s.mem, csum := b, len := 0x01#8 }.moveTo .accumulatingData := by
  obtain ⟨u, hu, rfl⟩ := andThen_next h
  obtain ⟨-, base, hb, rfl⟩ := State.bufWrite_next hu
  exact ⟨base, hb, by simp⟩

/-- Everything `RX_DATA` can do with a next state (R129). -/
theorem execRxData_next {b : Byte} {s t : State} (h : execRxData b s = .next t) :
    s.len.toNat < 128 ∧ ∃ base, s.bound = some base ∧
      let u := { s with
        mem := Memory.write (base + s.len.toNat) b s.mem, csum := addChecksum s.csum b, len := s.len + 0x01#8 }
      t = if s.len + 0x01#8 = 128#8 then u.moveTo .awaitChecksum else u := by
  obtain ⟨u, hu, rfl⟩ := andThen_next h
  obtain ⟨hl, base, hb, rfl⟩ := State.bufWrite_next hu
  exact ⟨hl, base, hb, rfl⟩

/-- Everything `RX_CKS` can do (R130). -/
theorem execRxCks_next {b : Byte} {s t : State} (h : execRxCks b s = .next t) :
    (b = s.csum ∧ s.err = false ∧ t = (s.moveTo .awaitStart).acceptPacket) ∨
    ((b ≠ s.csum ∨ s.err = true) ∧ t = (s.moveTo .awaitStart).rejectPacket) := by
  have h2 : (if s.accepts b then (s.moveTo .awaitStart).acceptPacket else (s.moveTo .awaitStart).rejectPacket) = t := by
    simpa [execRxCks] using h
  by_cases ha : s.accepts b = true
  · have h3 : b = s.csum ∧ s.err = false := by simpa [State.accepts] using ha
    exact .inl ⟨h3.1, h3.2, by simpa [ha] using h2.symm⟩
  · have h3 : b = s.csum → s.err = true := by simpa [State.accepts] using ha
    refine .inr ⟨?_, by simpa [ha] using h2.symm⟩
    by_cases hb : b = s.csum
    · exact .inr (h3 hb)
    · exact .inl hb

/-- What each instruction's next state is, with what must have held for there to be one. -/
def ExecNext (i : Instr) (s t : State) : Prop :=
  match i with
  | .init => s.running = false ∧ t = s.initialise
  | .start => s.initDone = true ∧ s.busy = false ∧
      t = { ({ s with res := none } : State).transmit nakByte with st := .awaitStart }
  | .ack => s.initDone = true ∧ s.busy = false ∧
      t = { ({ s with res := none } : State).transmit ackByte with st := .awaitStart }
  | .recv buf => s.initDone = true ∧ s.busy = false ∧
      t = if s.st = .idle then { s with res := some .stateError } else ({ s with res := none } : State).beginCall buf
  | .rxNone => t = s.emptyPoll Config.nodataThreshold Config.nodataMax
  | .rxSoh => t = { s with err := false, st := .sohSeen, trSeen := true }
  | .rxEot => t = s.finishTransfer eotNextState
  | .rxIgnore _ => t = s
  | .rxSeq b => t = (s.noteCheck (s.seqOK b)).moveTo .seqSeen
  | .rxComp b => t = (s.noteCheck (s.compOK b)).moveTo .compSeqSeen
  | .rxD0 b => ∃ base, s.bound = some base ∧
      t = { s with mem := Memory.write base b s.mem, csum := b, len := 0x01#8 }.moveTo .accumulatingData
  | .rxData b => s.len.toNat < 128 ∧ ∃ base, s.bound = some base ∧
      let u := { s with
        mem := Memory.write (base + s.len.toNat) b s.mem, csum := addChecksum s.csum b, len := s.len + 0x01#8 }
      t = if s.len + 0x01#8 = 128#8 then u.moveTo .awaitChecksum else u
  | .rxCks b =>
      (b = s.csum ∧ s.err = false ∧ t = (s.moveTo .awaitStart).acceptPacket) ∨
      ((b ≠ s.csum ∨ s.err = true) ∧ t = (s.moveTo .awaitStart).rejectPacket)
  | .rxIllegal _ => False

/-- Everything an instruction can do with a next state. -/
theorem exec_next {i : Instr} {s t : State} (h : exec i s = .next t) : ExecNext i s t := by
  cases i <;> simp only [exec] at h
  case init => exact State.acceptInit_next h
  case start => exact State.accept_next h
  case ack => exact State.accept_next h
  case recv => exact State.accept_next h
  case rxD0 => exact execRxD0_next h
  case rxData => exact execRxData_next h
  case rxCks => exact execRxCks_next h
  case rxIllegal => cases h
  all_goals
    simp only [execRxNone, execRxSoh, execRxEot, execRxIgnore, execRxSeq, execRxComp, Host.Outcome.next.injEq] at h
    exact h.symm

/-- What can be fetched. -/
theorem State.fetch_cases (s : State) :
    (s.running = true ∧ (∃ rest, s.host = .pass :: rest ∧ s.fetch = { s with host := rest }.fetchPoll)) ∨
    (s.running = true ∧ s.hostWaits = true ∧ s.fetch = s.fetchPoll) ∨
    (∃ rest, s.host = .rst :: rest ∧ s.fetch = .reset { s with host := rest }) ∨
    (∃ code buf rest, s.host = .cmdNoWait code buf :: rest ∧ s.fetch = .event (.cmd code buf) { s with host := rest }) ∨
    (s.running = false ∧ ∃ code buf rest, s.host = .cmd code buf :: rest ∧
      s.fetch = .event (.cmd code buf) { s with host := rest }) ∨
    (s.running = false ∧ ∃ addr v rest, s.host = .write addr v :: rest ∧
      s.fetch = .hostWrite addr v { s with host := rest }) ∨
    (s.running = false ∧ ∃ rest, s.host = .pass :: rest ∧ s.fetch = .wait { s with host := rest }) ∨
    (s.running = false ∧ s.host = [] ∧ s.fetch = .wait s) := by
  rcases h : s.host with _ | ⟨i, rest⟩
  · cases hr : s.running <;> simp [State.fetch, State.fetchQuiet, State.hostWaits, h, hr]
  · cases i <;> cases hr : s.running <;>
      simp_all [State.fetch, State.fetchQuiet, State.hostWaits, State.running]

/-- A poll step's fetch, spelled out (R120). -/
theorem State.fetchPoll_eq (s : State) : s.fetchPoll = .event (.poll s.st s.rxPoll.1) s.rxPoll.2 := rfl

/-- A poll does not look at the host's list. -/
theorem State.rxPoll_host (s : State) (l : List HostInput) :
    { s with host := l }.rxPoll = (s.rxPoll.1, { s.rxPoll.2 with host := l }) := by
  simp only [State.rxPoll]
  split <;> rfl

/-- Everything a step can do with a next state: a poll of a call, the reset input, a command, the host's own write, or
nothing (log entry 1). -/
theorem step_cases {s t : State} (h : step s = .next t) :
    s.holdsReserved = false ∧
    ((∃ inputs, s.running = true ∧ (s.hostWaits = true ∧ inputs = s.host ∨ s.host = .pass :: inputs) ∧
        exec (decode (.poll s.st s.rxPoll.1)) { s.rxPoll.2 with host := inputs } = .next t) ∨
     (∃ inputs, s.host = .rst :: inputs ∧ t = { s with host := inputs }.initialise) ∨
     (∃ code buf inputs,
        (s.host = .cmdNoWait code buf :: inputs ∨ s.running = false ∧ s.host = .cmd code buf :: inputs) ∧
        exec (decode (.cmd code buf)) { s with host := inputs } = .next t) ∨
     (∃ addr v inputs, s.running = false ∧ s.host = .write addr v :: inputs ∧
        t = { s with host := inputs }.hostWrite addr v) ∨
     (∃ inputs, s.running = false ∧ (s.host = .pass :: inputs ∨ s.host = [] ∧ inputs = []) ∧
        t = { s with host := inputs })) := by
  by_cases hs : s.holdsReserved = true
  · simp [step, hs] at h
  · have hs2 : s.holdsReserved = false := by simpa using hs
    refine ⟨hs2, ?_⟩
    have hh : ∀ u : State, u.host = s.host → { u with host := s.host } = u := fun u hu => by rw [← hu]
    have hp : s.rxPoll.2.host = s.host := by
      obtain ⟨_, _, h⟩ := s.rxPoll_state
      rw [h]
    rcases s.fetch_cases with ⟨hr, l, hl, e⟩ | ⟨hr, hw, e⟩ | ⟨l, hl, e⟩ | ⟨c, b, l, hl, e⟩ | ⟨hr, c, b, l, hl, e⟩ |
        ⟨hr, a, v, l, hl, e⟩ | ⟨hr, l, hl, e⟩ | ⟨hr, hl, e⟩ <;>
      simp only [step, hs2, Bool.false_eq_true, if_false, e, State.fetchPoll_eq, State.rxPoll_host] at h
    · exact .inl ⟨l, hr, .inr hl, h⟩
    · exact .inl ⟨s.host, hr, .inl ⟨hw, rfl⟩, by rw [hh _ hp]; exact h⟩
    · exact .inr (.inl ⟨l, hl, by simpa using h.symm⟩)
    · exact .inr (.inr (.inl ⟨c, b, l, .inl hl, h⟩))
    · exact .inr (.inr (.inl ⟨c, b, l, .inr ⟨hr, hl⟩, h⟩))
    · exact .inr (.inr (.inr (.inl ⟨a, v, l, hr, hl, by simpa using h.symm⟩)))
    · exact .inr (.inr (.inr (.inr ⟨l, hr, .inl hl, by simpa using h.symm⟩)))
    · refine .inr (.inr (.inr (.inr ⟨[], hr, .inr ⟨hl, rfl⟩, ?_⟩)))
      rw [← hl]
      simpa using h.symm

end Sys2Proof.Machine
end

