-- ==== Sys2Proof/Laws/Run.lean ====
section
/-! SUPPORT. Runs and the calls they record, said once. -/

namespace Sys2Proof.Machine

/-- A run of one step and then `k`. -/
theorem steps_of_step {s t : State} (h : step s = .next t) (k : Nat) : steps (k + 1) s = steps k t := by
  simp only [steps, h]

/-- A run goes on from where its first part ends. -/
theorem steps_of_steps {a : Nat} {s t : State} (h : steps a s = .next t) (b : Nat) : steps (a + b) s = steps b t := by
  induction a generalizing s with
  | zero => cases h; simp
  | succ a ih =>
    cases hs : step s with
    | next u =>
      rw [steps_of_step hs] at h
      rw [Nat.succ_add, steps_of_step hs, ih h]
    | fault r => simp [steps, hs] at h
    | refused r => simp [steps, hs] at h

/-- The calls of one step and then `k`. -/
theorem runCalls_of_step {s t : State} (h : step s = .next t) (k : Nat) :
    runCalls (k + 1) s = (callEnded s t).toList ++ runCalls k t := by
  simp only [runCalls, h]

/-- The calls of a run are those of its first part and then those of the rest. -/
theorem runCalls_of_steps {a : Nat} {s t : State} (h : steps a s = .next t) (b : Nat) :
    runCalls (a + b) s = runCalls a s ++ runCalls b t := by
  induction a generalizing s with
  | zero => cases h; simp [runCalls]
  | succ a ih =>
    cases hs : step s with
    | next u =>
      rw [steps_of_step hs] at h
      rw [Nat.succ_add, runCalls_of_step hs, runCalls_of_step hs, ih h, List.append_assoc]
    | fault r => simp [steps, hs] at h
    | refused r => simp [steps, hs] at h

/-- No call is over while one is in progress. -/
theorem callEnded_of_busy {s t : State} (h : t.busy = true) : callEnded s t = none := by
  simp [callEnded, h]

/-- A `RECV` is taken only from the head of the host's list. -/
theorem State.recvTaken_some {s : State} {buf : Nat} (h : s.recvTaken = some buf) :
    ∃ inputs, s.host = .cmdNoWait 0b11#2 buf :: inputs ∨ s.running = false ∧ s.host = .cmd 0b11#2 buf :: inputs := by
  have key : ∀ {code : BitVec 2} {b : Nat}, (if decode (.cmd code b) = .recv b then some b else none) = some buf →
      code = 0b11#2 ∧ b = buf := by
    intro code b h
    rcases cmdCode_cases code with hc | hc | hc | hc <;> subst hc <;> simp [decode, decodeCmd] at h ⊢
    exact h
  rcases s.fetch_cases with ⟨_, _, _, e⟩ | ⟨_, _, e⟩ | ⟨_, _, e⟩ | ⟨_, _, r, hl, e⟩ | ⟨hr, _, _, r, hl, e⟩ |
      ⟨_, _, _, _, _, e⟩ | ⟨_, _, _, e⟩ | ⟨_, _, e⟩ <;> simp [State.recvTaken, e, State.fetchPoll_eq] at h
  · obtain ⟨rfl, rfl⟩ := key (by simpa using h); exact ⟨r, .inl hl⟩
  · obtain ⟨rfl, rfl⟩ := key (by simpa using h); exact ⟨r, .inr ⟨hr, hl⟩⟩

/-- While the host waits in a call, no `RECV` is taken. -/
theorem State.recvTaken_none {s : State} (hr : s.running = true) (hw : s.hostWaits = true) : s.recvTaken = none := by
  cases h : s.recvTaken with
  | none => rfl
  | some buf =>
    obtain ⟨_, hl | ⟨hn, -⟩⟩ := State.recvTaken_some h
    · simp [State.hostWaits, hl] at hw
    · simp [hr] at hn

/-- The call in progress on `base` ends with the step, its buffer as `t` holds it. -/
theorem callEnded_of_waiting {s t : State} {base : Nat} (hr : s.running = true) (hw : s.hostWaits = true)
    (hb : s.bound = some base) (ht : t.busy = false) : callEnded s t = some (t.callRecord base) := by
  simp [callEnded, ht, State.recvTaken_none hr hw, hr, hb]

/-- A block of `n` bytes read whole is those bytes one by one. -/
theorem Memory.read_of_readBlock {base n : Nat} {m : List Host.Cell} {d : List Byte}
    (h : Memory.readBlock base m n = some d) : (List.range n).map (fun i => Memory.read (base + i) m) = d.map some := by
  induction n generalizing d with
  | zero => simp [Memory.readBlock] at h; simp [← h]
  | succ n ih =>
    simp only [Memory.readBlock] at h
    split at h
    · next bs b h1 h2 =>
      cases h
      simp [List.range_succ, ih h1, h2]
    · cases h

/-- A buffer whose 128 bytes are all written holds them (R51). -/
theorem State.bufferContents_of_readBlock {s : State} {base : Nat} {d : List Byte}
    (h : Memory.readBlock base s.mem 128 = some d) : s.bufferContents base = d.map some :=
  Memory.read_of_readBlock h

end Sys2Proof.Machine
end

