-- ==== Sys2Proof/Tests/Slice0.lean ====
section
/-! SUPPORT. Tests of the model's own work, each about one step, its expected result a vector of spec/95_test_vectors.md (V<n>) or a rule's own example; the WellFormed smoke test; words written out from 30_encoding.md; and the witnesses: for each statement with hypotheses, states and operands that meet them. -/

namespace Sys2Proof.Tests

open Sys2Proof.Machine

/-- The next state, where there is one. -/
def after (o : StepResult) : Option State :=
  match o with
  | .next t => some t
  | .fault _ => none
  | .refused _ => none

/-- Between commands, in `AwaitStart`. -/
def waiting : State := { State.reset with st := .awaitStart }

/-- In a call on the buffer at 0x100, in the given state. -/
def inCall (p : PState) : State :=
  { State.reset with st := p, busy := true, bound := some 0x100, trSeen := decide (p ≠ .awaitStart) }

/-- Before the first INIT, with other registers as they may be (R191). -/
def powerOn : State :=
  { State.reset with initDone := false, busy := true, st := .reserved, eseq := 0x5A#8, sseq := 0x11#8, len := 0xFF#8 }

/-! ### WellFormed: ill-formed terms are refused (R75, R82: the excluded bytes of RX_IGNORE) -/

theorem test_wellFormed_refuses_ignored_soh : (Instr.rxIgnore 0x01#8).wellFormed = false := by decide
theorem test_wellFormed_refuses_ignored_eot : (Instr.rxIgnore 0x04#8).wellFormed = false := by decide
theorem test_wellFormed_ignored_other : (Instr.rxIgnore 0x43#8).wellFormed = true := by decide

/-! ### Decode: one word per instruction, bit by bit -/

/-- R71: `cmd_code` 00, 01, 10, 11 in bits 1..0 of the first byte. -/
theorem test_decode_commands :
    decodeTableWord 8 0b00 = some .init ∧ decodeTableWord 8 0b01 = some .start ∧
    decodeTableWord 8 0b10 = some .ack ∧ decodeTableWord 8 0b11 = some (.recv 0) := by decide
/-- R71, R70: the handle of RECV comes from `cmd_buf`. -/
theorem test_decode_recv_handle : decodeBytes 0x2000 [0b00000011#8, 0#8] = .ok (.recv 0x2000, []) := by rfl
/-- R75, R73: 0x04 in AwaitStart (the table's bare byte) is RX_EOT. -/
theorem test_decode_eot : decodeTableWord 8 0b00000100 = some .rxEot := by decide
/-- R75, R79: selector 00010 and state 001. -/
theorem test_decode_soh : decodeBytes 0 [0b00000001#8, 0b00010001#8] = .ok (.rxSoh, []) := by rfl
/-- R75: no byte, state 001. -/
theorem test_decode_none : decodeBytes 0 [0b00000000#8, 0b00100001#8] = .ok (.rxNone, []) := by rfl
/-- R75: 0x43 in AwaitStart. -/
theorem test_decode_ignore : decodeBytes 0 [0b01000011#8, 0b00010001#8] = .ok (.rxIgnore 0x43#8, []) := by rfl
/-- R75: 0x04 in SohSeen is a sequence byte. -/
theorem test_decode_seq : decodeBytes 0 [0b00000100#8, 0b00010010#8] = .ok (.rxSeq 0x04#8, []) := by rfl
/-- R75: 0xFF in SeqSeen. -/
theorem test_decode_comp : decodeBytes 0 [0b11111111#8, 0b00010011#8] = .ok (.rxComp 0xFF#8, []) := by rfl
/-- R75: 0x7E in CompSeqSeen. -/
theorem test_decode_d0 : decodeBytes 0 [0b01111110#8, 0b00010100#8] = .ok (.rxD0 0x7E#8, []) := by rfl
/-- R75: 0x01 in AccumulatingData is data. -/
theorem test_decode_data : decodeBytes 0 [0b00000001#8, 0b00010101#8] = .ok (.rxData 0x01#8, []) := by rfl
/-- R75: 0xC0 in AwaitChecksum. -/
theorem test_decode_cks : decodeBytes 0 [0b11000000#8, 0b00010110#8] = .ok (.rxCks 0xC0#8, []) := by rfl
/-- R75, R122: a byte in state 7. -/
theorem test_decode_illegal : decodeBytes 0 [0b01010101#8, 0b00010111#8] = .ok (.rxIllegal (some 0x55#8), []) := by rfl
/-- The layout refuses by name what it gives no event. -/
theorem test_decode_refuses :
    eventOfBytes 0 [0x12#8] = .error .truncated ∧ eventOfBytes 0 [0x12#8, 0x80#8] = .error .unknownSelector ∧
    eventOfBytes 0 [0x12#8, 0x21#8] = .error .strayByte := ⟨rfl, rfl, rfl⟩

/-! ### The script syntax (R80, R81) -/

/-- R81: `FRAME` is 132 lines. -/
theorem test_script_frame_has_132_lines :
    (scriptAnswers (.frame 0x00#8 0xFF#8 (scriptData fun _ => 0x1A#8) 0x00#8)).length = 132 := by decide +kernel
/-- R81, 95_test_vectors.md: the checksum of `GOOD 0, DATA(i)` is 0xC0, its complement 0xFF. -/
theorem test_script_good_expands :
    scriptAnswers (.good 0x00#8 (scriptData fun i => BitVec.ofNat 8 i)) =
      frame 0x00#8 0xFF#8 (scriptData fun i => BitVec.ofNat 8 i) 0xC0#8 := by decide +kernel
/-- R80: the lines in order. -/
theorem test_script_order :
    (State.reset.withScript [.command 0b01#2 0, .command 0b11#2 0x100, .rxEmpty 2, .eot]).rx =
      [none, none, some 0x04#8] ∧
    (State.reset.withScript [.command 0b01#2 0, .command 0b11#2 0x100, .rxEmpty 2, .eot]).host =
      [.cmd 0b01#2 0, .cmd 0b11#2 0x100] := by decide

/-! ### Placement: a table word runs as the first instruction after reset -/

theorem test_placed_start_sends_nak :
    (after (step (State.reset.withFetchWord 8 1))).map (fun t => (t.st, t.tx)) = some (.awaitStart, [0x15#8]) := by
  decide
theorem test_placed_eot_finishes :
    (after (step (State.reset.withFetchWord 8 4))).map (fun t => (t.res, t.tx)) = some (some .finished, [0x06#8]) := by
  decide

/-! ### Commands (vectors 2.1) -/

/-- V1. -/
theorem test_init_from_power_on :
    (after (exec .init powerOn)).map (fun t => (t.st, t.eseq, t.sseq)) = some (.idle, 0x00#8, 0x00#8) ∧
    (after (exec .init powerOn)).map (fun t => (t.busy, t.res, t.initDone)) = some (false, none, true) := by decide
/-- V2. -/
theorem test_init_resets_sequence :
    (after (exec .init { waiting with eseq := 0x05#8 })).map (fun t => (t.st, t.eseq)) = some (.idle, 0x00#8) := by decide
/-- V3. -/
theorem test_start_keeps_sequence :
    (after (exec .start { State.reset with eseq := 0x07#8 })).map (fun t => (t.st, t.eseq, t.tx)) =
      some (.awaitStart, 0x07#8, [0x15#8]) := by decide
/-- V11. -/
theorem test_start_clears_result :
    (after (exec .start { waiting with res := some .packet })).map (fun t => t.res) = some none := by decide
/-- V5. -/
theorem test_ack_in_idle :
    (after (exec .ack State.reset)).map (fun t => (t.st, t.tx)) = some (.awaitStart, [0x06#8]) := by decide
/-- V7. -/
theorem test_recv_in_idle : exec (.recv 0x100) State.reset = .next { State.reset with res := some .stateError } := by rfl
/-- V8. -/
theorem test_recv_begins :
    (after (exec (.recv 0x100) { waiting with nodata := 9, trSeen := true })).map
      (fun t => (t.busy, t.nodata, t.trSeen, t.bound)) = some (true, 0, false, some 0x100) := by decide
/-- V9. -/
theorem test_recv_before_init : exec (.recv 0x100) powerOn = .refused .notInit := by rfl
/-- V10, through the step: the host does not wait. -/
theorem test_command_in_call : step { inCall .sohSeen with host := [.cmdNoWait 0b10#2 0] } = .fault .cmdBusy := by rfl

/-! ### Poll steps (vectors 2.2, 2.5) -/

/-- V52: threshold 3, the fourth empty poll. -/
theorem test_none_passes_threshold :
    (({ inCall .awaitStart with nodata := 3 }.emptyPoll 3 255)).res = some .noTransfer ∧
    (({ inCall .awaitStart with nodata := 2 }.emptyPoll 3 255)).busy = true := by decide
/-- V54: after a transition no count ends the call. -/
theorem test_none_disarmed :
    ({ inCall .seqSeen with nodata := 50 }.emptyPoll 2 255).busy = true ∧
    ({ inCall .seqSeen with nodata := 255 }.emptyPoll 2 255).nodata = 255 := by decide
/-- V20, through the step. -/
theorem test_soh_clears_err :
    (after (step { inCall .awaitStart with err := true, rx := [some 0x01#8] })).map (fun t => (t.st, t.err, t.trSeen)) =
      some (.sohSeen, false, true) := by decide
/-- V21. -/
theorem test_eot_finishes :
    (after (step { inCall .awaitStart with eseq := 0x03#8, rx := [some 0x04#8] })).map
      (fun t => (t.st, t.eseq, t.busy, t.tx, t.res)) = some (.awaitStart, 0x03#8, false, [0x06#8], some .finished) := by
  decide
/-- V22: with `EOT_NEXT_STATE = Idle`. -/
theorem test_eot_to_idle :
    ((inCall .awaitStart).finishTransfer .idle).st = .idle ∧ ((inCall .awaitStart).finishTransfer .idle).busy = false := by
  decide
/-- V23. -/
theorem test_ignore_ack_byte :
    step { inCall .awaitStart with rx := [some 0x06#8] } = .next (inCall .awaitStart) := by rfl
/-- V24, V25. -/
theorem test_seq_checked :
    (after (exec (.rxSeq 0x00#8) (inCall .sohSeen))).map (fun t => (t.st, t.err)) = some (.seqSeen, false) ∧
    (after (exec (.rxSeq 0x01#8) (inCall .sohSeen))).map (fun t => (t.st, t.err)) = some (.seqSeen, true) := by decide
/-- V26: the EOT value is a sequence byte here, through the step. -/
theorem test_seq_takes_eot_value :
    (after (step { inCall .sohSeen with eseq := 0x04#8, rx := [some 0x04#8] })).map (fun t => (t.st, t.err)) =
      some (.seqSeen, false) := by decide
/-- V28, V30. -/
theorem test_comp_checked :
    (after (exec (.rxComp 0xFE#8) (inCall .seqSeen))).map (fun t => (t.st, t.err)) = some (.compSeqSeen, true) ∧
    (after (exec (.rxComp 0x00#8) { inCall .seqSeen with eseq := 0xFF#8 })).map (fun t => t.err) = some false := by decide
/-- V29: a set flag stays set. -/
theorem test_comp_keeps_err :
    (after (exec (.rxComp 0xFF#8) { inCall .seqSeen with err := true })).map (fun t => t.err) = some true := by decide
/-- V31. -/
theorem test_d0_stores :
    (after (exec (.rxD0 0x7E#8) (inCall .compSeqSeen))).map (fun t => (t.st, t.csum, t.len, t.mem)) =
      some (.accumulatingData, 0x7E#8, 0x01#8, [(0x100, 0x7E#8)]) := by decide
/-- V32: the sum wraps. -/
theorem test_data_wraps :
    (after (exec (.rxData 0x01#8) { inCall .accumulatingData with len := 0x01#8, csum := 0xFF#8 })).map
      (fun t => (t.st, t.len, t.csum, t.mem)) = some (.accumulatingData, 0x02#8, 0x00#8, [(0x101, 0x01#8)]) := by decide
/-- V34: payload byte 127. -/
theorem test_data_last :
    (after (exec (.rxData 0x80#8) { inCall .accumulatingData with len := 127#8, csum := 0x40#8 })).map
      (fun t => (t.st, t.len, t.csum, t.mem)) = some (.awaitChecksum, 128#8, 0xC0#8, [(0x17F, 0x80#8)]) := by decide
/-- V39: the sequence wraps on an accepted packet. -/
theorem test_cks_accepts_and_wraps :
    (after (exec (.rxCks 0x00#8) { inCall .awaitChecksum with eseq := 0xFF#8 })).map
      (fun t => (t.st, t.eseq, t.busy, t.res, t.tx)) = some (.awaitStart, 0x00#8, false, some .packet, []) := by decide
/-- V38: a header error with a right checksum is rejected. -/
theorem test_cks_rejects_header_error :
    (after (exec (.rxCks 0xC0#8) { inCall .awaitChecksum with csum := 0xC0#8, err := true })).map
      (fun t => (t.st, t.eseq, t.busy, t.res, t.tx)) = some (.awaitStart, 0x00#8, true, none, [0x15#8]) := by decide
/-- R122: either answer in Idle. -/
theorem test_illegal_poll :
    step { inCall .idle with rx := [none] } = .fault .illegal ∧
    step { inCall .idle with rx := [some 0x01#8] } = .fault .illegal := ⟨rfl, rfl⟩
/-- R190: the reset input in a call. -/
theorem test_reset_in_call :
    (after (step { inCall .accumulatingData with host := [.rst], eseq := 0x09#8 })).map
      (fun t => (t.st, t.eseq, t.busy, t.res, t.tx)) = some (.idle, 0x00#8, false, none, []) := by decide
/-- 2.3: `DATA(i)` sums to C0, 128 bytes of FF to 80. -/
theorem test_checksum_table :
    checksumOf ((List.range 128).map (BitVec.ofNat 8)) = 0xC0#8 ∧ checksumOf (List.replicate 128 0xFF#8) = 0x80#8 := by
  decide +kernel

/-! ### The invariant of the states used as witnesses -/

/-- A call in `AwaitStart`, nothing seen yet. -/
theorem inCall_awaitStart_inv (l : List Answer) (h : List HostInput) :
    State.Inv { inCall .awaitStart with rx := l, host := h } := by
  constructor <;> simp [inCall, State.reset, State.running, Memory.wf, Memory.wfFrom]

/-- A call after the sequence byte. -/
theorem inCall_seqSeen_inv (l : List Answer) : State.Inv { inCall .seqSeen with rx := l } := by
  constructor <;> simp [inCall, State.reset, State.running, Memory.wf, Memory.wfFrom]

/-- A call at the last payload byte. -/
theorem inCall_lastByte_inv (l : List Answer) :
    State.Inv { inCall .accumulatingData with rx := l, len := 127#8 } := by
  constructor <;> simp [inCall, State.reset, State.running, Memory.wf, Memory.wfFrom]

/-! ### Witnesses: the hypotheses of each statement are met together -/

theorem witness_EncodedInstructionsDecodeBack :
    (Instr.recv 7).wellFormed = true ∧ (∀ b, Instr.recv 7 = .recv b → b = 7) ∧ (Instr.rxIgnore 0xFF#8).wellFormed = true := by
  simp [Instr.wellFormed]
theorem witness_ReceiveEventsDecodeByStateAndAnswer :
    PState.awaitStart ≠ .idle ∧ PState.awaitStart ≠ .reserved ∧ PState.awaitChecksum ≠ .idle := by decide
theorem witness_PortsShowTheState :
    ({ waiting with res := some .packet } : State).res = some .packet ∧
    ({ waiting with res := some .finished } : State).res = some .finished ∧
    ({ waiting with res := some .noTransfer } : State).res = some .noTransfer ∧
    ({ State.reset with res := some .stateError } : State).res = some .stateError ∧ waiting.busy = false := by decide
theorem witness_DecodedInstructionsKeepTheirEvent : PState.idle ≠ .reserved ∧ (0b11#2 : BitVec 2) = 0b11#2 := by decide
/-- One state for each clause: a listed answer, a free answer, a step let pass with either, a command, a command not waited for. -/
theorem witness_StepRunsTheDecodedInstruction :
    (let s := { inCall .awaitStart with rx := [none] };
      s.holdsReserved = false ∧ s.running = true ∧ s.hostWaits = true ∧ s.rx = none :: []) ∧
    (let s := inCall .awaitChecksum;
      s.holdsReserved = false ∧ s.running = true ∧ s.hostWaits = true ∧ s.rx = []) ∧
    (let s := { inCall .sohSeen with rx := [some 0xFF#8], host := [.pass, .rst] };
      s.holdsReserved = false ∧ s.running = true ∧ s.host = .pass :: [.rst] ∧ s.rx = some 0xFF#8 :: []) ∧
    (let s := { inCall .sohSeen with host := [.pass, .rst] };
      s.holdsReserved = false ∧ s.running = true ∧ s.host = .pass :: [.rst] ∧ s.rx = []) ∧
    (let s := { powerOn with host := [.cmd 0b00#2 0] };
      s.holdsReserved = false ∧ s.running = false ∧ s.host = .cmd 0b00#2 0 :: []) ∧
    (let s := { inCall .awaitStart with host := [.cmdNoWait 0b11#2 5] };
      s.holdsReserved = false ∧ s.host = .cmdNoWait 0b11#2 5 :: []) := by decide
theorem witness_PlacedTableWordRunsNext :
    decodeTableWord 8 4 = some .rxEot ∧ decodeTableWord 8 3 = some (.recv 0) ∧
    decodeTableWord 16 0x1755 = some (.rxIllegal (some 0x55#8)) := by decide
theorem witness_ResetInputInitialises :
    ({ inCall .seqSeen with host := [.rst] } : State).holdsReserved = false ∧
    ({ inCall .seqSeen with host := [.rst] } : State).host = .rst :: [] := by decide
theorem witness_ReservedStateFaults :
    ({ State.reset with st := .reserved } : State).initDone = true ∧
    ({ State.reset with st := .reserved } : State).st = .reserved := by decide
theorem witness_OverRunStaysAsItIs :
    ({ waiting with host := [.pass, .write 5 0x01#8] } : State).holdsReserved = false ∧
    ({ waiting with host := [.pass, .write 5 0x01#8] } : State).runOver = true := by decide
/-- Both outcomes: INIT, and the host's own write. -/
theorem witness_PowerOnStateOnlyInitialises :
    powerOn.initDone = false ∧ (after (step { powerOn with host := [.cmd 0b00#2 0] })).isSome = true ∧
    (after (step { powerOn with host := [.write 5 0x01#8] })).isSome = true := by decide
/-- Before INIT with `busy` set, and after it with `busy` clear. -/
theorem witness_InitInitialises :
    (powerOn.initDone = true → powerOn.busy = false) ∧ (waiting.initDone = true → waiting.busy = false) := by decide
/-- The hypotheses of START, ACK and RECV outside `Idle`; `State.reset` meets those of RECV in `Idle`. -/
theorem witness_commands_accepted :
    waiting.initDone = true ∧ waiting.busy = false ∧ waiting.st ≠ .idle ∧
    State.reset.initDone = true ∧ State.reset.busy = false ∧ State.reset.st = .idle := by decide
theorem witness_CommandsBeforeInitAreRefused :
    powerOn.initDone = false ∧ powerOn.busy = true ∧ waiting.initDone = true ∧ waiting.busy = false := by decide
theorem witness_CommandsInCallFault :
    (let s := { inCall .awaitStart with host := [.cmdNoWait 0b00#2 0] };
      s.initDone = true ∧ s.busy = true ∧ s.st ≠ .reserved ∧ s.host = .cmdNoWait 0b00#2 0 :: []) ∧
    waiting.initDone = true ∧ waiting.busy = false := by decide
theorem witness_EotEndsTheTransfer : (inCall .awaitStart).st = .awaitStart := by decide
theorem witness_StateAfterEotDecidesTheNextRecv :
    (inCall .awaitStart).initDone = true ∧ (PState.idle = .awaitStart ∨ PState.idle = .idle) ∧
    (PState.awaitStart = .awaitStart ∨ PState.awaitStart = .idle) := by decide
/-- Bytes beside SOH and EOT. -/
theorem witness_IgnoredByteChangesNothing :
    let s := { inCall .awaitStart with rx := [some 0x05#8] }
    (0x05#8 ≠ 0x01#8 ∧ 0x05#8 ≠ 0x04#8) ∧ (0x00#8 ≠ 0x01#8 ∧ 0x03#8 ≠ 0x04#8) ∧
    s.running = true ∧ s.hostWaits = true ∧ s.st = .awaitStart ∧ s.rx = some 0x05#8 :: [] := by decide
theorem witness_header_states :
    (inCall .sohSeen).st = .sohSeen ∧ (inCall .seqSeen).st = .seqSeen ∧ (inCall .sohSeen).err = false := by decide
theorem witness_FirstPayloadByteIsStored :
    (inCall .compSeqSeen).st = .compSeqSeen ∧ (inCall .compSeqSeen).bound = some 0x100 := by decide
/-- The last payload byte, the one before it, and the first after byte 0. -/
theorem witness_LaterPayloadBytesAreStored :
    let s := fun n : Byte => { inCall .accumulatingData with len := n };
    (∀ n, n = 127#8 ∨ n = 126#8 ∨ n = 1#8 →
      (s n).st = .accumulatingData ∧ (s n).bound = some 0x100 ∧ (s n).len.toNat ≤ 127) := by
  rintro s n (rfl | rfl | rfl) <;> decide
theorem witness_StoringInstructionsWriteOneByte :
    (inCall .compSeqSeen).bound = some 0x100 ∧ (after (exec (.rxD0 0x7E#8) (inCall .compSeqSeen))).isSome = true ∧
    (after (exec (.rxData 0x7E#8) { inCall .accumulatingData with len := 127#8 })).isSome = true := by decide
theorem witness_IndexOutsideTheBufferFaults :
    128 ≤ ({ inCall .accumulatingData with len := 128#8 } : State).len.toNat := by decide
theorem witness_MatchingChecksumAcceptsThePacket :
    (inCall .awaitChecksum).st = .awaitChecksum ∧ 0x00#8 = (inCall .awaitChecksum).csum ∧
    (inCall .awaitChecksum).err = false := by decide
/-- Each error alone. -/
theorem witness_AnyErrorRejectsThePacket :
    (0x01#8 ≠ (inCall .awaitChecksum).csum ∨ (inCall .awaitChecksum).err = true) ∧
    (0x00#8 ≠ ({ inCall .awaitChecksum with err := true } : State).csum ∨
      ({ inCall .awaitChecksum with err := true } : State).err = true) := by decide
theorem witness_PollInIdleFaults :
    (inCall .idle).running = true ∧ (inCall .idle).hostWaits = true ∧ (inCall .idle).st = .idle := by decide
/-- What writes `tr_seen`, clears `busy` and gives a result. -/
theorem witness_RegisterWriters :
    (after (exec (.recv 3) { waiting with trSeen := true })).map (fun t => t.trSeen) = some false ∧
    (after (exec (.rxSeq 0x00#8) { inCall .sohSeen with trSeen := false })).map (fun t => t.trSeen) = some true ∧
    (after (exec .init powerOn)).map (fun t => t.busy) = some false ∧
    (after (exec .rxEot (inCall .awaitStart))).map (fun t => (t.busy, t.res)) = some (false, some .finished) ∧
    (after (exec (.rxCks 0x00#8) (inCall .awaitChecksum))).map (fun t => (t.busy, t.res)) = some (false, some .packet) ∧
    (after (exec (.recv 3) State.reset)).map (fun t => (t.busy, t.res)) = some (false, some .stateError) := by decide
/-- The writers' statements: an instruction outside the excluded ones that answers a next state, and each named effect. -/
theorem witness_instruction_effects :
    (after (exec .start State.reset)).isSome = true ∧ (∀ b, Instr.start ≠ .rxD0 b) ∧ (∀ b, Instr.start ≠ .rxData b) ∧
    Instr.start ≠ .init ∧ Instr.start ≠ .rxNone ∧ (∀ buf, Instr.start ≠ .recv buf) ∧
    (after (exec (.recv 3) waiting)).map (fun t => t.busy) = some true ∧ waiting.busy = false ∧
    (after (exec .rxSoh { inCall .awaitStart with err := true })).map (fun t => t.err) = some false ∧
    (after (exec (.rxSeq 0x01#8) (inCall .sohSeen))).map (fun t => t.err) = some true := by
  refine ⟨by decide, by simp, by simp, by simp, by simp, by simp, by decide, by decide, by decide, by decide⟩
/-- The steps that send and store: NAK, ACK, the payload steps, the host's write. -/
theorem witness_step_effects :
    (after (step { State.reset with host := [.cmd 0b01#2 0] })).map (fun t => t.tx) = some [0x15#8] ∧
    (after (step { inCall .awaitStart with rx := [some 0x04#8] })).map (fun t => t.tx) = some [0x06#8] ∧
    (after (step { inCall .compSeqSeen with rx := [some 0x7E#8] })).map (fun t => t.mem) = some [(0x100, 0x7E#8)] ∧
    (after (step { inCall .accumulatingData with len := 127#8, rx := [some 0x7E#8] })).map (fun t => t.mem) =
      some [(0x17F, 0x7E#8)] ∧
    (after (step { waiting with host := [.write 5 0x01#8] })).map (fun t => t.mem) = some [(5, 0x01#8)] := by decide
theorem witness_PollStepFollowsTheNextStateTable :
    ∃ s : State, s.Inv ∧ s.running = true ∧ s.hostWaits = true ∧ s.st = .accumulatingData ∧ s.len = 127#8 :=
  ⟨_, inCall_lastByte_inv [some 0x00#8], rfl, rfl, rfl, rfl⟩
theorem witness_CallEndings :
    ∃ s t : State, s.Inv ∧ s.running = true ∧ step s = .next t ∧ t.busy = false :=
  ⟨_, _, inCall_awaitStart_inv [some 0x04#8] [], rfl, rfl, rfl⟩
/-- The call that the reset input ends. -/
theorem witness_CallEndings_reset :
    ∃ s t : State, s.Inv ∧ s.running = true ∧ step s = .next t ∧ t.busy = false ∧ t.res = none ∧ s.host = .rst :: [] :=
  ⟨_, _, inCall_awaitStart_inv [] [.rst], rfl, rfl, rfl, rfl, rfl⟩
theorem witness_SilenceAfterATransitionNeverEndsTheCall :
    ∃ s : State, s.Inv ∧ s.running = true ∧ s.hostWaits = true ∧ s.trSeen = true ∧
      s.rx = List.replicate 3 none ++ [some 0xFF#8] :=
  ⟨_, inCall_seqSeen_inv (List.replicate 3 none ++ [some 0xFF#8]), rfl, rfl, rfl, rfl⟩
/-- Both clauses at the boundary: the count is the threshold, with an ignored byte on the way. -/
theorem witness_NoDataTimeoutCountsEmptyPolls :
    let s := { inCall .awaitStart with nodata := Config.nodataThreshold, rx := [some 0x43#8] ++ none :: [] }
    s.running = true ∧ s.hostWaits = true ∧ s.st = .awaitStart ∧ s.trSeen = false ∧
    (∀ b, some b ∈ [some 0x43#8] → b ≠ 0x01#8 ∧ b ≠ 0x04#8) ∧
    s.nodata + [some 0x43#8].count none ≤ Config.nodataThreshold ∧ s.rx = [some 0x43#8] ++ none :: [] ∧
    s.nodata + [some 0x43#8].count none = Config.nodataThreshold := by
  refine ⟨rfl, rfl, rfl, rfl, ?_, Nat.le_refl _, rfl, rfl⟩
  intro b h
  simp at h
  subst h
  decide
theorem witness_GoodFrameIsDelivered :
    let d := List.replicate 128 0x1A#8
    let s := { inCall .awaitStart with eseq := 0xFF#8, rx := frame 0xFF#8 (0xFF#8 - 0xFF#8) d (checksumOf d) ++ [] }
    s.running = true ∧ s.hostWaits = true ∧ s.st = .awaitStart ∧ s.bound = some 0x100 ∧ d.length = 128 ∧
    s.rx = frame s.eseq (0xFF#8 - s.eseq) d (checksumOf d) ++ [] := ⟨rfl, rfl, rfl, rfl, rfl, rfl⟩
/-- A wrong complement alone. -/
theorem witness_BadFrameIsRejected :
    let d := List.replicate 128 0x1A#8
    let s := { inCall .awaitStart with rx := frame 0x00#8 0xFE#8 d (checksumOf d) ++ [] }
    s.running = true ∧ s.hostWaits = true ∧ s.st = .awaitStart ∧ s.bound = some 0x100 ∧ d.length = 128 ∧
    ¬(0x00#8 = s.eseq ∧ 0xFE#8 = 0xFF#8 - s.eseq ∧ checksumOf d = checksumOf d) ∧
    s.rx = frame 0x00#8 0xFE#8 d (checksumOf d) ++ [] := ⟨rfl, rfl, rfl, rfl, rfl, by simp [inCall, State.reset], rfl⟩
theorem witness_SequenceCountsDeliveredPackets :
    ∃ s t : State, s.initDone = true ∧ s.host.all HostInput.keepsSequence = true ∧ steps 1 s = .next t ∧
      acceptedPackets 1 s = 1 :=
  ⟨{ inCall .awaitChecksum with rx := [some 0x00#8], host := [.cmd 0b10#2 0] }, _, rfl, rfl, rfl, rfl⟩
theorem witness_StepKeepsTheInvariant : ∃ s t : State, s.Inv ∧ step s = .next t :=
  ⟨_, _, inCall_lastByte_inv [some 0x00#8], rfl⟩
/-- A call after payload byte 0. -/
theorem witness_StepKeepsTheRunningSum :
    ∃ s t : State, s.Inv ∧ s.PayloadInv ∧ s.st = .accumulatingData ∧ step s = .next t := by
  refine ⟨{ inCall .accumulatingData with
    len := 1#8, csum := 0x7E#8, mem := [(0x100, 0x7E#8)], rx := [some 0x01#8] }, _, ?_, ?_, rfl, rfl⟩
  · constructor <;> simp [inCall, State.reset, State.running, Memory.wf, Memory.wfFrom]
  · intro _ _
    exact ⟨0x100, [0x7E#8], rfl, rfl, rfl⟩
/-- The 128 bytes of a received payload of zeros. -/
def fullBuffer : List Host.Cell := (List.range 128).map fun i => (0x100 + i, 0x00#8)
theorem witness_PacketResultMeansAChecksummedPayload :
    ∃ s t : State, s.Inv ∧ s.PayloadInv ∧ s.running = true ∧ step s = .next t ∧ t.res = some .packet := by
  refine ⟨{ inCall .awaitChecksum with len := 128#8, mem := fullBuffer, rx := [some 0x00#8] }, _, ?_, ?_, rfl, rfl, rfl⟩
  · have h : Memory.wf fullBuffer = true := by decide +kernel
    constructor <;> simp [inCall, State.reset, State.running, h]
  · intro _ _
    have h : Memory.readBlock 0x100 fullBuffer 128 = some (List.replicate 128 0x00#8) := by decide +kernel
    have h2 : checksumOf (List.replicate 128 0x00#8) = 0x00#8 := by decide +kernel
    exact ⟨0x100, _, rfl, h, h2.symm⟩
/-- R201: a run finished by EOT, its outcome the call's result and buffer, ACK sent, and the final registers. -/
theorem witness_FinishedRunKeepsItsOutcome :
    let s := { inCall .awaitStart with rx := [some 0x04#8] }
    s.holdsReserved = false ∧
    runOutcome 1 s = some {
      calls := [{ buf := 0x100, result := some .finished, contents := List.replicate 128 none }], tx := [0x06#8],
      st := .awaitStart, eseq := 0x00#8, sseq := 0x00#8 } := ⟨rfl, by decide +kernel⟩
/-- R201, R190: a call that `rst` ends is recorded without a result; a run with `busy = 1` has no outcome. -/
theorem test_runOutcome_reset_and_busy :
    (runOutcome 1 { inCall .seqSeen with host := [.rst] }).map RunOutcome.results = some [] ∧
    (runOutcome 1 { inCall .seqSeen with host := [.rst] }).map (fun o => o.calls.map CallRecord.buf) = some [0x100] ∧
    runOutcome 1 { inCall .seqSeen with rx := [none] } = none := by decide +kernel
/-- A frame that passes and one that does not: the two sides of the statement's condition. -/
theorem witness_RunRecordsAcceptedFramesOnly :
    let d := List.replicate 128 0x1A#8
    let s := fun cks => { inCall .awaitStart with rx := frame 0x00#8 0xFF#8 d cks ++ [] }
    (s (checksumOf d)).running = true ∧ (s (checksumOf d)).hostWaits = true ∧ (s (checksumOf d)).st = .awaitStart ∧
    (s (checksumOf d)).bound = some 0x100 ∧ d.length = 128 ∧ 0xFF#8 = 0xFF#8 - (s 0x00#8).eseq ∧
    (s 0x01#8).rx = frame (s 0x01#8).eseq 0xFF#8 d 0x01#8 ++ [] ∧ checksumOf d = 0x00#8 :=
  ⟨rfl, rfl, rfl, rfl, rfl, rfl, rfl, by decide +kernel⟩
theorem witness_RunRecordsMatchTheSteps :
    (∃ s : State, s.Inv ∧ s.running = true) ∧
    (let s := { State.reset with host := [.cmd 0b11#2 0x100] };
      s.initDone = true ∧ s.busy = false ∧ s.st = .idle ∧ s.host = .cmd 0b11#2 0x100 :: []) :=
  ⟨⟨_, inCall_awaitStart_inv [] [], rfl⟩, rfl, rfl, rfl, rfl⟩
/-- One step that records a `Packet`, with both invariants. -/
theorem witness_EveryPacketRecordHoldsAPayload :
    ∃ (s : State) (c : CallRecord), s.Inv ∧ s.PayloadInv ∧ c ∈ runCalls 1 s ∧ c.result = some .packet := by
  refine ⟨{ inCall .awaitChecksum with len := 128#8, mem := fullBuffer, rx := [some 0x00#8] }, _, ?_, ?_,
    List.mem_singleton.2 rfl, rfl⟩
  · have h : Memory.wf fullBuffer = true := by decide +kernel
    constructor <;> simp [inCall, State.reset, State.running, h]
  · intro _ _
    have h : Memory.readBlock 0x100 fullBuffer 128 = some (List.replicate 128 0x00#8) := by decide +kernel
    have h2 : checksumOf (List.replicate 128 0x00#8) = 0x00#8 := by decide +kernel
    exact ⟨0x100, _, rfl, h, h2.symm⟩
theorem witness_WorkingRegistersAreNeverObserved :
    State.reset.initDone = true ∧ State.reset.busy = false ∧ (State.reset.st = .idle ∨ State.reset.st = .awaitStart) ∧
    waiting.initDone = true ∧ waiting.busy = false ∧ (waiting.st = .idle ∨ waiting.st = .awaitStart) := by decide

end Sys2Proof.Tests
end

section
/-! The step by what the host does (00_scope.md R6), as equations: a poll of a call in progress, or the host's command. -/

namespace Sys2Proof.Machine

variable {s : State}

/-- A poll past the end of the receive stream draws a free answer (R62, log entry 2). -/
theorem State.rxPoll_nil (h : s.rx = []) :
    s.rxPoll = (Config.freeAnswer s.draws, { s with draws := s.draws + 1 }) := by
  simp [State.rxPoll, h]

/-- In a call a host that waits leaves the step to the poll (R104, R186). -/
theorem State.fetch_of_hostWaits (hr : s.running = true) (hw : s.hostWaits = true) : s.fetch = s.fetchPoll := by
  rcases h : s.host with _ | ⟨i, inputs⟩
  · simp [State.fetch, State.fetchQuiet, h, hr]
  · cases i <;> simp_all [State.fetch, State.hostWaits]

/-- In a call a host that lets the step pass leaves it to the poll, and its input is taken (R58). -/
theorem State.fetch_of_pass {inputs : List HostInput} (hr : s.running = true) (h : s.host = .pass :: inputs) :
    s.fetch = { s with host := inputs }.fetchPoll := by
  have hr' : { s with host := inputs }.running = true := hr
  simp [State.fetch, State.fetchQuiet, h, hr']

/-- With no call in progress the host's command is fetched (R104). -/
theorem State.fetch_of_cmd {code : BitVec 2} {buf : Nat} {inputs : List HostInput}
    (hr : s.running = false) (h : s.host = .cmd code buf :: inputs) :
    s.fetch = .event (.cmd code buf) { s with host := inputs } := by
  simp [State.fetch, h, hr]

/-- A command the host presents without waiting is fetched, in a call too (R104). -/
theorem State.fetch_of_cmdNoWait {code : BitVec 2} {buf : Nat} {inputs : List HostInput}
    (h : s.host = .cmdNoWait code buf :: inputs) :
    s.fetch = .event (.cmd code buf) { s with host := inputs } := by
  simp [State.fetch, h]

/-- A step that fetches an event runs the instruction the event decodes to, unless 7 is held (R6, R77). -/
theorem step_of_fetch_event {e : Event} {u : State} (hs : s.holdsReserved = false) (h : s.fetch = .event e u) :
    step s = exec (decode e) u := by
  simp [step, hs, h]

/-- A step of a call with the host waiting runs the decoded answer of one poll (R120). -/
theorem step_of_hostWaits (hs : s.holdsReserved = false) (hr : s.running = true) (hw : s.hostWaits = true) :
    step s = exec (decode (.poll s.st s.rxPoll.1)) s.rxPoll.2 :=
  step_of_fetch_event hs (State.fetch_of_hostWaits hr hw)

/-- A step of a call the host lets pass runs the decoded answer of one poll, and takes the host's input (R120, R58). -/
theorem step_of_pass {inputs : List HostInput} (hs : s.holdsReserved = false) (hr : s.running = true)
    (h : s.host = .pass :: inputs) :
    step s = exec (decode (.poll s.st s.rxPoll.1)) { s.rxPoll.2 with host := inputs } := by
  have hf : s.fetch = .event (.poll s.st s.rxPoll.1) { s.rxPoll.2 with host := inputs } := by
    rw [State.fetch_of_pass hr h, State.fetchPoll_eq, State.rxPoll_host]
  exact step_of_fetch_event hs hf

end Sys2Proof.Machine
end

section

namespace Sys2Proof.Proofs
open Sys2Proof.Machine

/-- Settles O8: what the step fetches in each case, with the two answers a poll can give. -/
theorem stepRunsTheDecodedInstruction : Obligations.StepRunsTheDecodedInstruction := by
  intro s hs
  refine ⟨?waitListed, ?waitFree, ?passListed, ?passFree, ?command, ?commandNoWait⟩
  case waitListed =>
    intro a rest hr hw hrx
    rw [step_of_hostWaits hs hr hw, State.rxPoll_cons hrx]
  case waitFree =>
    intro hr hw hrx
    rw [step_of_hostWaits hs hr hw, State.rxPoll_nil hrx]
  case passListed =>
    intro a rest inputs hr hh hrx
    rw [step_of_pass hs hr hh, State.rxPoll_cons hrx]
  case passFree =>
    intro inputs hr hh hrx
    rw [step_of_pass hs hr hh, State.rxPoll_nil hrx]
  case command =>
    intro code buf inputs hr hh
    exact step_of_fetch_event hs (State.fetch_of_cmd hr hh)
  case commandNoWait =>
    intro code buf inputs hh
    exact step_of_fetch_event hs (State.fetch_of_cmdNoWait hh)

end Sys2Proof.Proofs
end

section
/-! What one instruction can do with a next state, one constructor per outcome, and who writes which register. -/

namespace Sys2Proof.Machine

/-- The outcomes of the instructions, the branches of a meaning told apart: from `s`, instruction, next state. -/
inductive ExecEffect (s : State) : Instr → State → Prop where
  | init (hr : s.running = false) : ExecEffect s .init s.initialise
  | start (hi : s.initDone = true) (hb : s.busy = false) :
      ExecEffect s .start { ({ s with res := none } : State).transmit nakByte with st := .awaitStart }
  | ack (hi : s.initDone = true) (hb : s.busy = false) :
      ExecEffect s .ack { ({ s with res := none } : State).transmit ackByte with st := .awaitStart }
  | recvIdle {buf : Nat} (hi : s.initDone = true) (hb : s.busy = false) (hst : s.st = .idle) :
      ExecEffect s (.recv buf) { s with res := some .stateError }
  | recvCall {buf : Nat} (hi : s.initDone = true) (hb : s.busy = false) (hst : s.st ≠ .idle) :
      ExecEffect s (.recv buf) (({ s with res := none } : State).beginCall buf)
  | noneEnds (htr : s.trSeen = false)
      (hn : Config.nodataThreshold < min (s.nodata + 1) Config.nodataMax) :
      ExecEffect s .rxNone (({ s with nodata := min (s.nodata + 1) Config.nodataMax } : State).complete .noTransfer)
  | noneCounts (hn : s.trSeen = false → min (s.nodata + 1) Config.nodataMax ≤ Config.nodataThreshold) :
      ExecEffect s .rxNone { s with nodata := min (s.nodata + 1) Config.nodataMax }
  | soh : ExecEffect s .rxSoh { s with err := false, st := .sohSeen, trSeen := true }
  | eot : ExecEffect s .rxEot (s.finishTransfer eotNextState)
  | ignore {b : Byte} : ExecEffect s (.rxIgnore b) s
  | seq {b : Byte} : ExecEffect s (.rxSeq b) ((s.noteCheck (s.seqOK b)).moveTo .seqSeen)
  | comp {b : Byte} : ExecEffect s (.rxComp b) ((s.noteCheck (s.compOK b)).moveTo .compSeqSeen)
  | d0 {b : Byte} {base : Nat} (hbd : s.bound = some base) :
      ExecEffect s (.rxD0 b)
        (({ s with mem := Memory.write base b s.mem, csum := b, len := 0x01#8 } : State).moveTo .accumulatingData)
  | dataLast {b : Byte} {base : Nat} (hbd : s.bound = some base) (hl : s.len + 0x01#8 = 128#8) :
      ExecEffect s (.rxData b)
        (({ s with
            mem := Memory.write (base + s.len.toNat) b s.mem, csum := addChecksum s.csum b,
            len := s.len + 0x01#8 } : State).moveTo .awaitChecksum)
  | dataNext {b : Byte} {base : Nat} (hbd : s.bound = some base) (hlt : s.len.toNat < 128)
      (hl : s.len + 0x01#8 ≠ 128#8) :
      ExecEffect s (.rxData b)
        { s with
          mem := Memory.write (base + s.len.toNat) b s.mem, csum := addChecksum s.csum b, len := s.len + 0x01#8 }
  | cksAccept (herr : s.err = false) : ExecEffect s (.rxCks s.csum) (s.moveTo .awaitStart).acceptPacket
  | cksReject {b : Byte} (hbad : b ≠ s.csum ∨ s.err = true) :
      ExecEffect s (.rxCks b) (s.moveTo .awaitStart).rejectPacket

/-- Every next state of an instruction is one of its outcomes. -/
theorem exec_effect {i : Instr} {s t : State} (h : exec i s = .next t) : ExecEffect s i t := by
  have hx := exec_next h
  cases i with
  | init => obtain ⟨hr, rfl⟩ := hx; exact .init hr
  | start => obtain ⟨hi, hb, rfl⟩ := hx; exact .start hi hb
  | ack => obtain ⟨hi, hb, rfl⟩ := hx; exact .ack hi hb
  | recv buf =>
    obtain ⟨hi, hb, rfl⟩ := hx
    split
    · next hst => exact .recvIdle hi hb hst
    · next hst => exact .recvCall hi hb hst
  | rxNone =>
    obtain ⟨htr, hn, e⟩ | ⟨hn, e⟩ := s.emptyPoll_cases Config.nodataThreshold Config.nodataMax
    · rw [hx, e]; exact .noneEnds htr hn
    · rw [hx, e]; exact .noneCounts fun htr => Nat.le_of_not_lt fun hlt => hn ⟨htr, hlt⟩
  | rxSoh => cases hx; exact .soh
  | rxEot => cases hx; exact .eot
  | rxIgnore b => cases hx; exact .ignore
  | rxSeq b => cases hx; exact .seq
  | rxComp b => cases hx; exact .comp
  | rxD0 b => obtain ⟨base, hbd, rfl⟩ := hx; exact .d0 hbd
  | rxData b =>
    obtain ⟨hlt, base, hbd, rfl⟩ := hx
    split
    · next hl => exact .dataLast hbd hl
    · next hl => exact .dataNext hbd hlt hl
  | rxCks b =>
    obtain ⟨rfl, herr, rfl⟩ | ⟨hbad, rfl⟩ := hx
    · exact .cksAccept herr
    · exact .cksReject hbad
  | rxIllegal a => cases hx

namespace ExecEffect

variable {i : Instr} {s t : State}

/-- R24, R156: INIT and the accepting checksum step write `eseq`. -/
theorem eseq_cases (e : ExecEffect s i t) :
    t.eseq = s.eseq ∨ (i = .init ∧ t.eseq = 0x00#8) ∨
    (i = .rxCks s.csum ∧ s.err = false ∧ t.eseq = s.eseq + 0x01#8 ∧ t.res = some .packet) := by
  cases e with
  | init => exact .inr (.inl ⟨rfl, rfl⟩)
  | cksAccept herr => exact .inr (.inr ⟨rfl, herr, rfl, rfl⟩)
  | _ => exact .inl rfl

/-- R26: SOH clears `err`, the header steps may set it, and no other instruction writes it. -/
theorem err_cases (e : ExecEffect s i t) :
    t.err = s.err ∨ (i = .rxSoh ∧ t.err = false) ∨
    (∃ b, i = .rxSeq b ∧ t.err = (s.err || !s.seqOK b)) ∨ (∃ b, i = .rxComp b ∧ t.err = (s.err || !s.compOK b)) := by
  cases e with
  | soh => exact .inr (.inl ⟨rfl, rfl⟩)
  | seq => exact .inr (.inr (.inl ⟨_, rfl, rfl⟩))
  | comp => exact .inr (.inr (.inr ⟨_, rfl, rfl⟩))
  | _ => exact .inl rfl

/-- R25, R34: only INIT writes `sseq` and `init_done`. -/
theorem sseq_initDone_kept (e : ExecEffect s i t) (hi : i ≠ .init) : t.sseq = s.sseq ∧ t.initDone = s.initDone := by
  cases e with
  | init => exact absurd rfl hi
  | _ => exact ⟨rfl, rfl⟩

/-- R27, R28: only the payload steps write `csum` and `len`. -/
theorem csum_len_kept (e : ExecEffect s i t) (h0 : ∀ b, i ≠ .rxD0 b) (h1 : ∀ b, i ≠ .rxData b) :
    t.csum = s.csum ∧ t.len = s.len := by
  cases e with
  | d0 => exact absurd rfl (h0 _)
  | dataLast => exact absurd rfl (h1 _)
  | dataNext => exact absurd rfl (h1 _)
  | _ => exact ⟨rfl, rfl⟩

/-- R29: only RECV and the empty poll write `nodata`. -/
theorem nodata_kept (e : ExecEffect s i t) (hrecv : ∀ buf, i ≠ .recv buf) (hnone : i ≠ .rxNone) :
    t.nodata = s.nodata := by
  cases e with
  | recvCall => exact absurd rfl (hrecv _)
  | noneEnds => exact absurd rfl hnone
  | noneCounts => exact absurd rfl hnone
  | _ => rfl

/-- R30: how `tr_seen` is written: cleared by RECV, set by SOH, and set by a receive event that changes `st`. -/
theorem trSeen_cases (e : ExecEffect s i t) :
    t.trSeen = s.trSeen ∨ (∃ buf, i = .recv buf ∧ t.trSeen = false) ∨ (i = .rxSoh ∧ t.trSeen = true) ∨
    (t.trSeen = (s.trSeen || decide (t.st ≠ s.st)) ∧
      i ≠ .init ∧ i ≠ .start ∧ i ≠ .ack ∧ ∀ buf, i ≠ .recv buf) := by
  cases e with
  | recvCall => exact .inr (.inl ⟨_, rfl, rfl⟩)
  | soh => exact .inr (.inr (.inl ⟨rfl, rfl⟩))
  | eot | seq | comp | d0 | dataLast | cksAccept | cksReject =>
    exact .inr (.inr (.inr ⟨rfl, nofun, nofun, nofun, nofun⟩))
  | _ => exact .inl rfl

/-- R30: only RECV clears `tr_seen`. -/
theorem recv_of_trSeen_cleared (e : ExecEffect s i t) (hs : s.trSeen = true) (ht : t.trSeen = false) :
    ∃ buf, i = .recv buf := by
  obtain h | ⟨buf, rfl, -⟩ | ⟨-, h⟩ | ⟨h, -⟩ := e.trSeen_cases
  · simp [h, hs] at ht
  · exact ⟨buf, rfl⟩
  · simp [h] at ht
  · simp [h, hs] at ht

/-- R30: `tr_seen` is set by SOH or by a receive event that changes `st`. -/
theorem soh_or_moved_of_trSeen_set (e : ExecEffect s i t) (hs : s.trSeen = false) (ht : t.trSeen = true) :
    i = .rxSoh ∨ (t.st ≠ s.st ∧ i ≠ .init ∧ i ≠ .start ∧ i ≠ .ack ∧ ∀ buf, i ≠ .recv buf) := by
  obtain h | ⟨-, -, h⟩ | ⟨rfl, -⟩ | ⟨h, hevent⟩ := e.trSeen_cases
  · simp [h, hs] at ht
  · simp [h] at ht
  · exact .inl rfl
  · have hmoved : t.st ≠ s.st := by simpa [h, hs] using ht
    exact .inr ⟨hmoved, hevent⟩

/-- R31: how a call begins and ends: `busy` is set by RECV, cleared by INIT before the first initialisation, and cleared
by the three results of a poll (R106). -/
theorem busy_cases (e : ExecEffect s i t) :
    t.busy = s.busy ∨ (∃ buf, i = .recv buf ∧ s.busy = false ∧ t.bound = some buf) ∨
    (t.busy = false ∧ (s.running = false ∧ i = .init ∨ (i = .rxNone ∧ s.trSeen = false ∧ t.res = some .noTransfer) ∨
      (i = .rxEot ∧ t.res = some .finished) ∨ (∃ b, i = .rxCks b ∧ t.res = some .packet))) := by
  cases e with
  | init hr => exact .inr (.inr ⟨rfl, .inl ⟨hr, rfl⟩⟩)
  | recvCall hi hb => exact .inr (.inl ⟨_, rfl, hb, rfl⟩)
  | noneEnds htr => exact .inr (.inr ⟨rfl, .inr (.inl ⟨rfl, htr, rfl⟩)⟩)
  | eot => exact .inr (.inr ⟨rfl, .inr (.inr (.inl ⟨rfl, rfl⟩))⟩)
  | cksAccept => exact .inr (.inr ⟨rfl, .inr (.inr (.inr ⟨_, rfl, rfl⟩))⟩)
  | _ => exact .inl rfl

/-- R31, R103: only RECV sets `busy`, and it binds its buffer. -/
theorem recv_of_busy_set (e : ExecEffect s i t) (ht : t.busy = true) (hs : s.busy = false) :
    ∃ buf, i = .recv buf ∧ t.bound = some buf := by
  obtain h | ⟨buf, hi, -, hbd⟩ | ⟨h, -⟩ := e.busy_cases
  · simp [h, hs] at ht
  · exact ⟨buf, hi, hbd⟩
  · simp [h] at ht

/-- R31, R106, R191: what clears `busy`. -/
theorem ending_of_busy_cleared (e : ExecEffect s i t) (hs : s.busy = true) (ht : t.busy = false) :
    (i = .init ∧ s.initDone = false) ∨ (i = .rxNone ∧ s.trSeen = false ∧ t.res = some .noTransfer) ∨
    (i = .rxEot ∧ t.res = some .finished) ∨ (∃ b, i = .rxCks b ∧ t.res = some .packet) := by
  obtain h | ⟨-, -, hb, -⟩ | ⟨-, ⟨hr, hi⟩ | h⟩ := e.busy_cases
  · simp [h, hs] at ht
  · simp [hs] at hb
  · have hnot : s.initDone = false := by simpa [State.running, hs] using hr
    exact .inl ⟨hi, hnot⟩
  · exact .inr h

/-- R32, R106: a command clears `res`; RECV in `Idle` and the three ends of a call give a result. -/
theorem res_cases (e : ExecEffect s i t) :
    t.res = s.res ∨
    (t.res = none ∧ (i = .init ∨ i = .start ∨ i = .ack ∨ ∃ buf, i = .recv buf)) ∨
    (t.res = some .stateError ∧ s.st = .idle ∧ ∃ buf, i = .recv buf) ∨
    (t.res = some .noTransfer ∧ t.busy = false ∧ s.trSeen = false ∧ i = .rxNone) ∨
    (t.res = some .finished ∧ t.busy = false ∧ i = .rxEot) ∨
    (t.res = some .packet ∧ t.busy = false ∧ s.err = false ∧ i = .rxCks s.csum) := by
  cases e with
  | init => exact .inr (.inl ⟨rfl, .inl rfl⟩)
  | start => exact .inr (.inl ⟨rfl, .inr (.inl rfl)⟩)
  | ack => exact .inr (.inl ⟨rfl, .inr (.inr (.inl rfl))⟩)
  | recvCall => exact .inr (.inl ⟨rfl, .inr (.inr (.inr ⟨_, rfl⟩))⟩)
  | recvIdle hi hb hst => exact .inr (.inr (.inl ⟨rfl, hst, _, rfl⟩))
  | noneEnds htr => exact .inr (.inr (.inr (.inl ⟨rfl, rfl, htr, rfl⟩)))
  | eot => exact .inr (.inr (.inr (.inr (.inl ⟨rfl, rfl, rfl⟩))))
  | cksAccept herr => exact .inr (.inr (.inr (.inr (.inr ⟨rfl, rfl, herr, rfl⟩))))
  | _ => exact .inl rfl

/-- R55: RECV binds the caller's buffer, the end of a call releases it. -/
theorem bound_cases (e : ExecEffect s i t) :
    t.bound = s.bound ∨ (t.busy = true ∧ ∃ buf, i = .recv buf ∧ t.bound = some buf) ∨
    (t.busy = false ∧ t.bound = none) := by
  cases e with
  | recvCall => exact .inr (.inl ⟨rfl, _, rfl, rfl⟩)
  | init | noneEnds | eot | cksAccept => exact .inr (.inr ⟨rfl, rfl⟩)
  | _ => exact .inl rfl

/-- The answers, the host's list and the count of free answers are not the instruction's to change (log entries 1, 2). -/
theorem inputs_kept (e : ExecEffect s i t) : t.rx = s.rx ∧ t.host = s.host ∧ t.draws = s.draws := by
  cases e <;> exact ⟨rfl, rfl, rfl⟩

end ExecEffect

end Sys2Proof.Machine
end

section
/-! The invariant of the state (10_state.md R37, R38): how it is established between calls and in a call, and that each
instruction keeps it where the step runs it. -/

namespace Sys2Proof.Machine

variable {s t : State}

/-- A call in progress is one of an initialised block (R191). -/
theorem State.initDone_of_running (hr : s.running = true) : s.initDone = true :=
  (Bool.and_eq_true_iff.1 hr).1

/-- A call in progress is one with `busy` set (R31). -/
theorem State.busy_of_running (hr : s.running = true) : s.busy = true :=
  (Bool.and_eq_true_iff.1 hr).2

/-- A state between calls meets the invariant whatever the registers of a call hold (R192). -/
theorem State.Inv.of_between (hm : Memory.wf s.mem = true) (hn : s.nodata ≤ Config.nodataMax)
    (hst : s.st = .idle ∨ s.st = .awaitStart) (hb : s.busy = false) (hbd : s.bound = none) (hq : s.sseq = 0x00#8) :
    s.Inv where
  memWf := hm
  counterFits := hn
  legal _ := by rcases hst with h | h <;> simp [h]
  between _ _ := hst
  inCall hr := by simp [State.running, hb] at hr
  bufferHeld _ := by simp [hb, hbd]
  noResult hr := by simp [State.running, hb] at hr
  armed hr := by simp [State.running, hb] at hr
  lenInData _ h5 := by simp [h5] at hst
  lenFull _ h6 := by simp [h6] at hst
  senderUnused _ := hq

/-- The invariant says nothing of the streams, the host's list and the count of free answers, and of memory only its
form. -/
theorem State.Inv.of_world (h : s.Inv) {mem : List Host.Cell} (hm : Memory.wf mem = true) (rx : List Answer)
    (host : List HostInput) (draws : Nat) :
    State.Inv { s with mem := mem, rx := rx, host := host, draws := draws } :=
  { h with memWf := hm }

/-- Between calls no buffer is held (R55). -/
theorem State.Inv.bound_none (h : s.Inv) (hi : s.initDone = true) (hb : s.busy = false) : s.bound = none := by
  have hheld := h.bufferHeld hi
  simpa [hb] using hheld

/-- In a call past `AwaitStart` a transition has occurred (R37). -/
theorem State.Inv.trSeen_of_ne_awaitStart (h : s.Inv) (hr : s.running = true) (hst : s.st ≠ .awaitStart) :
    s.trSeen = true := by
  cases htr : s.trSeen with
  | true => rfl
  | false => exact absurd (h.armed hr htr).1 hst

/-- The registers that say a call is in progress and how: what a transition within the call keeps. -/
def State.callPart (s : State) : Bool × Bool × Option Nat × Option Res × Nat × Byte :=
  (s.initDone, s.busy, s.bound, s.res, s.nodata, s.sseq)

/-- A transition within a call keeps the invariant where the new state has the length R38 asks of it. -/
theorem State.Inv.of_transition (h : s.Inv) (hr : s.running = true) (hcall : t.callPart = s.callPart)
    (hm : Memory.wf t.mem = true) (htr : t.trSeen = true) (hidle : t.st ≠ .idle) (hlegal : t.st ≠ .reserved)
    (hdata : t.st = .accumulatingData → 1 ≤ t.len.toNat ∧ t.len.toNat ≤ 127)
    (hfull : t.st = .awaitChecksum → t.len = 128#8) : t.Inv := by
  have hi : s.initDone = true := State.initDone_of_running hr
  have hb : s.busy = true := State.busy_of_running hr
  simp only [State.callPart, Prod.mk.injEq] at hcall
  obtain ⟨ei, eb, ebd, eres, en, eq⟩ := hcall
  constructor
  case memWf => exact hm
  case counterFits => rw [en]; exact h.counterFits
  case legal => exact fun _ => hlegal
  case between => exact fun _ hnb => by simp [eb, hb] at hnb
  case inCall => exact fun _ => hidle
  case bufferHeld => rw [ebd, eb]; exact fun _ => h.bufferHeld hi
  case noResult => rw [eres]; exact fun _ => h.noResult hr
  case armed => exact fun _ hn => by simp [htr] at hn
  case lenInData => exact fun _ => hdata
  case lenFull => exact fun _ => hfull
  case senderUnused => rw [eq]; exact fun _ => h.senderUnused hi

/-- INIT and the reset input establish the invariant, before the first initialisation too (R100, R190). -/
theorem State.Inv.initialise (h : s.Inv) : s.initialise.Inv :=
  .of_between h.memWf h.counterFits (.inl rfl) rfl rfl rfl

/-- An accepted command keeps the invariant. -/
theorem ExecEffect.command_keeps_inv {i : Instr} (e : ExecEffect s i t) (hc : Laws.isCommand i = true) (h : s.Inv) :
    t.Inv := by
  cases e with
  | init => exact h.initialise
  | start hi hb | ack hi hb =>
    exact .of_between h.memWf h.counterFits (.inr rfl) hb (h.bound_none hi hb) (h.senderUnused hi)
  | recvIdle hi hb hst =>
    exact .of_between h.memWf h.counterFits (.inl hst) hb (h.bound_none hi hb) (h.senderUnused hi)
  | recvCall hi hb hst =>
    have hwait : s.st = .awaitStart := (h.between hi hb).resolve_left hst
    exact {
      memWf := h.memWf
      counterFits := Nat.zero_le _
      legal := h.legal
      between := fun _ hnb => nomatch hnb
      inCall := fun _ => hst
      bufferHeld := fun _ => rfl
      noResult := fun _ => rfl
      armed := fun _ _ => ⟨hwait, Nat.zero_le _⟩
      lenInData := h.lenInData
      lenFull := h.lenFull
      senderUnused := h.senderUnused }
  | _ => cases hc

/-- An empty poll of a call keeps the invariant (R121): it ends the call only in `AwaitStart`. -/
theorem ExecEffect.rxNone_keeps_inv (e : ExecEffect s .rxNone t) (h : s.Inv) (hr : s.running = true) : t.Inv := by
  have hi : s.initDone = true := State.initDone_of_running hr
  cases e with
  | noneEnds htr =>
    exact .of_between h.memWf (Nat.min_le_right _ _) (.inr (h.armed hr htr).1) rfl rfl (h.senderUnused hi)
  | noneCounts hn =>
    exact { h with
      counterFits := Nat.min_le_right _ _
      armed := fun _ htr => ⟨(h.armed hr htr).1, hn htr⟩ }

/-- A byte polled in `AwaitStart` keeps the invariant: SOH opens a frame, EOT ends the call, another is ignored. -/
theorem startByte_keeps_inv {b : Byte} (e : ExecEffect s (decodeStartByte b) t) (h : s.Inv) (hr : s.running = true) :
    t.Inv := by
  have hi : s.initDone = true := State.initDone_of_running hr
  obtain ⟨-, hd⟩ | ⟨-, hd⟩ | ⟨-, -, hd⟩ := decodeStartByte_cases b <;> rw [hd] at e <;> cases e
  case soh => exact h.of_transition hr rfl h.memWf rfl nofun nofun nofun nofun
  case eot => exact .of_between h.memWf h.counterFits (.inr rfl) rfl rfl (h.senderUnused hi)
  case ignore => exact h

/-- A payload byte after the first keeps the invariant (R38): `len` rises by one, and 128 moves to `AwaitChecksum`. -/
theorem ExecEffect.rxData_keeps_inv {b : Byte} (e : ExecEffect s (.rxData b) t) (h : s.Inv) (hr : s.running = true)
    (hst : s.st = .accumulatingData) : t.Inv := by
  have htr : s.trSeen = true := h.trSeen_of_ne_awaitStart hr (by simp [hst])
  cases e with
  | dataLast hbd hl =>
    exact h.of_transition hr rfl (Memory.wf_write _ _ h.memWf) (by simp [htr]) nofun nofun nofun fun _ => hl
  | dataNext hbd hlt hl =>
    have hlen : (s.len + 0x01#8).toNat = s.len.toNat + 1 := by bv_omega
    have hne : (s.len + 0x01#8).toNat ≠ 128 := fun h128 => hl (BitVec.eq_of_toNat_eq h128)
    refine h.of_transition hr rfl (Memory.wf_write _ _ h.memWf) htr (h.inCall hr) ?_ (fun _ => ?_) ?_
    · simp [hst]
    · simp only [hlen] at hne ⊢; omega
    · simp [hst]

/-- The checksum byte keeps the invariant: accepted it ends the call, rejected the call waits for the next frame. -/
theorem ExecEffect.rxCks_keeps_inv {b : Byte} (e : ExecEffect s (.rxCks b) t) (h : s.Inv) (hr : s.running = true)
    (hst : s.st = .awaitChecksum) : t.Inv := by
  have hi : s.initDone = true := State.initDone_of_running hr
  cases e with
  | cksAccept => exact .of_between h.memWf h.counterFits (.inr rfl) rfl rfl (h.senderUnused hi)
  | cksReject => exact h.of_transition hr rfl h.memWf (by simp [hst]) nofun nofun nofun nofun

/-- The instruction a poll selects keeps the invariant, in every state of a call and for every answer (R75). -/
theorem poll_keeps_inv {a : Answer} (e : ExecEffect s (decodePoll s.st a) t) (h : s.Inv) (hr : s.running = true) :
    t.Inv := by
  have hi : s.initDone = true := State.initDone_of_running hr
  cases hst : s.st <;> rw [hst] at e
  case idle => exact absurd hst (h.inCall hr)
  case reserved => exact absurd hst (h.legal hi)
  all_goals
    cases a with
    | none => exact e.rxNone_keeps_inv h hr
    | some b => ?_
  case awaitStart => exact startByte_keeps_inv e h hr
  case sohSeen => cases e; exact h.of_transition hr rfl h.memWf (by simp [hst]) nofun nofun nofun nofun
  case seqSeen => cases e; exact h.of_transition hr rfl h.memWf (by simp [hst]) nofun nofun nofun nofun
  case compSeqSeen =>
    cases e
    exact h.of_transition hr rfl (Memory.wf_write _ _ h.memWf) (by simp [hst]) nofun nofun (fun _ => by simp) nofun
  case accumulatingData => exact e.rxData_keeps_inv h hr hst
  case awaitChecksum => exact e.rxCks_keeps_inv h hr hst

/-- What is decoded from the command port is a host command (R71). -/
theorem isCommand_decode_cmd (code : BitVec 2) (buf : Nat) : Laws.isCommand (decode (.cmd code buf)) = true := by
  rcases cmdCode_cases code with rfl | rfl | rfl | rfl <;> rfl

end Sys2Proof.Machine
end

section

namespace Sys2Proof.Proofs
open Sys2Proof.Machine

/-- Settles O53: by what the step takes, a poll of a call, the reset input, a command, the host's write, or nothing. -/
theorem stepKeepsTheInvariant : Obligations.StepKeepsTheInvariant := by
  intro s t h hstep
  obtain ⟨-, hpoll | hreset | hcmd | hwrite | hwait⟩ := step_cases hstep
  · obtain ⟨inputs, hr, -, hx⟩ := hpoll
    obtain ⟨rx, draws, hp⟩ := s.rxPoll_state
    rw [hp] at hx
    exact poll_keeps_inv (s := { s with rx := rx, host := inputs, draws := draws }) (exec_effect hx)
      (h.of_world h.memWf rx inputs draws) hr
  · obtain ⟨inputs, -, rfl⟩ := hreset
    exact (h.of_world h.memWf s.rx inputs s.draws).initialise
  · obtain ⟨code, buf, inputs, -, hx⟩ := hcmd
    exact (exec_effect hx).command_keeps_inv (isCommand_decode_cmd code buf)
      (h.of_world h.memWf s.rx inputs s.draws)
  · obtain ⟨addr, v, inputs, -, -, rfl⟩ := hwrite
    exact h.of_world (Memory.wf_write addr v h.memWf) s.rx inputs s.draws
  · obtain ⟨inputs, -, -, rfl⟩ := hwait
    exact h.of_world h.memWf s.rx inputs s.draws

/-- Settles O39: by the writers of `eseq`. -/
theorem sequenceAdvancesOnlyOnAccept : Obligations.SequenceAdvancesOnlyOnAccept := by
  intro i s t h
  obtain hkept | hinit | ⟨hi, herr, heseq, hres⟩ := (exec_effect h).eseq_cases
  · exact .inl hkept
  · exact .inr (.inl hinit)
  · exact .inr (.inr ⟨hi, herr, by simp [heseq, BitVec.toNat_add], hres⟩)

/-- Settles O40: by the writers of `err`; a header step sets it only where its check fails (R152, R153). -/
theorem errorFlagWriters : Obligations.ErrorFlagWriters := by
  intro i s t h
  obtain hkept | ⟨hi, hclear⟩ | ⟨b, hi, hseq⟩ | ⟨b, hi, hcomp⟩ := (exec_effect h).err_cases
  · exact ⟨fun hs ht => by simp [hkept, hs] at ht, fun hs ht => by simp [hkept, hs] at ht⟩
  · exact ⟨fun _ _ => hi, fun _ ht => by simp [hclear] at ht⟩
  · refine ⟨fun hs ht => by simp [hseq, hs] at ht, fun hs ht => ⟨b, .inl ⟨hi, ?_⟩⟩⟩
    simpa [hseq, hs, State.seqOK] using ht
  · refine ⟨fun hs ht => by simp [hcomp, hs] at ht, fun hs ht => ⟨b, .inr ⟨hi, ?_⟩⟩⟩
    simpa [hcomp, hs, State.compOK] using ht

/-- Settles O41: the writers of each register, one lemma each. -/
theorem registerWriters : Obligations.RegisterWriters := by
  intro i s t h
  have e := exec_effect h
  exact ⟨e.sseq_initDone_kept, e.csum_len_kept, e.nodata_kept, e.recv_of_trSeen_cleared,
    e.soh_or_moved_of_trSeen_set, e.recv_of_busy_set, e.ending_of_busy_cleared, e.res_cases, e.bound_cases,
    e.inputs_kept⟩

/-- Settles O4: port by port. -/
theorem portsShowTheState : Obligations.PortsShowTheState := by
  intro s
  refine ⟨rfl, rfl, rfl, rfl, rfl, Option.isSome_iff_ne_none, ?packet, ?finished, ?noTransfer, ?stateError, ?read⟩
  case read => intro hb addr; simp [State.hostRead, hb]
  all_goals intro hres; simp [State.resCode, hres, Res.code]

/-- Settles O11: field by field of the reset state. -/
theorem resetStateHoldsTheSpecsValues : Obligations.ResetStateHoldsTheSpecsValues :=
  ⟨rfl, rfl, rfl, rfl, rfl, rfl⟩

/-- Settles O12: the held code is looked at before anything is fetched (R77). -/
theorem reservedStateFaults : Obligations.ReservedStateFaults := by
  intro s hi hst
  have hheld : s.holdsReserved = true := by simp [State.holdsReserved, hi, hst]
  simp [step, hheld]

/-- Settles O52: the reset state is one between calls, in `Idle`. -/
theorem invariantHoldsAtReset : Obligations.InvariantHoldsAtReset :=
  .of_between rfl (Nat.zero_le _) (.inl rfl) rfl rfl rfl

end Sys2Proof.Proofs
end

section
/-! What an instruction and a poll do to memory and to the transmit stream (20_memory.md R53, R58, R63). -/

namespace Sys2Proof

/-- A polled byte is recovered from the instruction it selects, and so is the state it was polled in (R75): only the
empty poll and the illegal one forget theirs. -/
theorem encode_of_decodePoll {st : PState} {a : Answer} {i : Instr} (h : decodePoll st a = i) (hnone : i ≠ .rxNone)
    (hillegal : ∀ a', i ≠ .rxIllegal a') : encode i = .poll st a := by
  subst h
  cases st
  case idle | reserved => exact absurd rfl (hillegal a)
  all_goals
    cases a with
    | none => exact absurd rfl hnone
    | some b => ?_
  case awaitStart =>
    obtain ⟨rfl, hd⟩ | ⟨rfl, hd⟩ | ⟨-, -, hd⟩ := decodeStartByte_cases b <;> simp only [decodePoll, hd, encode]
  all_goals rfl

end Sys2Proof

namespace Sys2Proof.Machine

variable {s t : State}

/-- After a write of one byte that byte reads as written and every other byte as before. -/
theorem Memory.read_of_eq_write {a : Nat} {v : Byte} {m m' : List Host.Cell} (h : m' = Memory.write a v m) :
    Memory.read a m' = some v ∧ ∀ addr, addr ≠ a → Memory.read addr m' = Memory.read addr m := by
  subst h
  exact ⟨Memory.read_write_same a v m, fun addr hne => Memory.read_write_other hne v m⟩

/-- A buffer write at an index outside 0..127 faults, with or without a buffer (R53). -/
theorem State.bufWrite_of_outside {i : Nat} (v : Byte) (hi : 128 ≤ i) : s.bufWrite i v = .fault .illegal := by
  have hout : ¬ i < payloadLen := Nat.not_lt.2 hi
  simp only [State.bufWrite, if_neg hout]

/-- What a poll runs is an outcome of the instruction its answer selects, from a state that differs from the one polled
in the streams of inputs alone. -/
theorem poll_effect {inputs : List HostInput}
    (h : exec (decode (.poll s.st s.rxPoll.1)) { s.rxPoll.2 with host := inputs } = .next t) :
    ∃ rx draws, ExecEffect { s with rx := rx, host := inputs, draws := draws } (decodePoll s.st s.rxPoll.1) t := by
  obtain ⟨rx, draws, hp⟩ := s.rxPoll_state
  rw [hp] at h
  exact ⟨rx, draws, exec_effect h⟩

namespace ExecEffect

variable {i : Instr} {b : Byte} {base : Nat}

/-- R128: payload byte 0 is stored at index 0 of the bound buffer. -/
theorem rxD0_mem (e : ExecEffect s (.rxD0 b) t) (hbound : s.bound = some base) :
    t.mem = Memory.write (bufferAddr base 0) b s.mem := by
  cases e with
  | d0 hbd =>
    cases hbd.symm.trans hbound
    rfl

/-- R129, R53: a later payload byte is stored at the old `len`, which is an index of the bound buffer. -/
theorem rxData_mem (e : ExecEffect s (.rxData b) t) (hbound : s.bound = some base) :
    s.payloadIndex < 128 ∧ t.mem = Memory.write (bufferAddr base s.payloadIndex) b s.mem := by
  cases e with
  | dataLast hbd hl =>
    have hlt : s.len.toNat < 128 := by bv_omega
    cases hbd.symm.trans hbound
    exact ⟨hlt, rfl⟩
  | dataNext hbd hlt =>
    cases hbd.symm.trans hbound
    exact ⟨hlt, rfl⟩

/-- R50, R107: an instruction leaves memory as it is, unless it is a payload step, which has a buffer to store into. -/
theorem mem_kept_or_payload (e : ExecEffect s i t) :
    t.mem = s.mem ∨ ∃ base b, s.bound = some base ∧ (i = .rxD0 b ∨ i = .rxData b) := by
  cases e with
  | d0 hbd => exact .inr ⟨_, _, hbd, .inl rfl⟩
  | dataLast hbd | dataNext hbd => exact .inr ⟨_, _, hbd, .inr rfl⟩
  | _ => exact .inl rfl

/-- R50, R107: no instruction but the payload steps changes memory. -/
theorem mem_kept (e : ExecEffect s i t) (h0 : ∀ b, i ≠ .rxD0 b) (hdata : ∀ b, i ≠ .rxData b) : t.mem = s.mem := by
  obtain hkept | ⟨_, b, -, hi | hi⟩ := e.mem_kept_or_payload
  · exact hkept
  · exact absurd hi (h0 b)
  · exact absurd hi (hdata b)

/-- R107: a host command leaves memory as it is. -/
theorem command_mem (e : ExecEffect s i t) (hc : Laws.isCommand i = true) : t.mem = s.mem :=
  e.mem_kept (fun b hi => by simp [hi, Laws.isCommand] at hc) (fun b hi => by simp [hi, Laws.isCommand] at hc)

/-- R63, R108: ACK and EOT send ACK, START and the reject path send NAK, and nothing else sends. -/
theorem tx_cases (e : ExecEffect s i t) :
    t.tx = s.tx ∨ (t.tx = s.tx ++ [ackByte] ∧ (i = .ack ∨ i = .rxEot)) ∨
    (t.tx = s.tx ++ [nakByte] ∧ (i = .start ∨ ∃ b, i = .rxCks b ∧ (b ≠ s.csum ∨ s.err = true))) := by
  cases e with
  | ack => exact .inr (.inl ⟨rfl, .inl rfl⟩)
  | eot => exact .inr (.inl ⟨rfl, .inr rfl⟩)
  | start => exact .inr (.inr ⟨rfl, .inl rfl⟩)
  | cksReject hbad => exact .inr (.inr ⟨rfl, .inr ⟨_, rfl, hbad⟩⟩)
  | _ => exact .inl rfl

/-- R58, R63: an instruction sends at most one byte, ACK or NAK. -/
theorem sends_at_most_one (e : ExecEffect s i t) :
    t.tx = s.tx ∨ t.tx = s.tx ++ [ackByte] ∨ t.tx = s.tx ++ [nakByte] :=
  e.tx_cases.imp_right (Or.imp And.left And.left)

/-- R130, R154: a new result `Packet` is given by the checksum step alone, on a matching byte with `err` clear. -/
theorem accepted_of_packet (e : ExecEffect s i t) (hs : s.res = none) (ht : t.res = some .packet) :
    i = .rxCks s.csum ∧ s.err = false := by
  obtain h | ⟨h, -⟩ | ⟨h, -⟩ | ⟨h, -⟩ | ⟨h, -⟩ | ⟨-, -, herr, hi⟩ := e.res_cases
  case inr.inr.inr.inr.inr => exact ⟨hi, herr⟩
  all_goals simp [h, hs] at ht

end ExecEffect

end Sys2Proof.Machine
end

section

namespace Sys2Proof.Proofs
open Sys2Proof.Machine

/-- Settles O32: each payload step is one write at the address it computes. -/
theorem storingInstructionsWriteOneByte : Obligations.StoringInstructionsWriteOneByte := by
  intro s t b base hbound
  constructor
  · intro h
    exact Memory.read_of_eq_write ((exec_effect h).rxD0_mem hbound)
  · intro h
    obtain ⟨hindex, hmem⟩ := (exec_effect h).rxData_mem hbound
    exact ⟨hindex, Memory.read_of_eq_write hmem⟩

/-- Settles O42: only an instruction sends, at most one byte; the reset input and the host's write send nothing. -/
theorem stepSendsAtMostOneControlByte : Obligations.StepSendsAtMostOneControlByte := by
  intro s t hstep
  obtain ⟨-, ⟨_, -, -, hx⟩ | ⟨_, -, rfl⟩ | ⟨_, _, _, -, hx⟩ | ⟨_, _, _, -, -, rfl⟩ | ⟨_, -, -, rfl⟩⟩ :=
    step_cases hstep
  case inl =>
    obtain ⟨rx, draws, e⟩ := poll_effect hx
    exact e.sends_at_most_one
  case inr.inr.inl => exact (exec_effect hx).sends_at_most_one
  all_goals exact .inl rfl

/-- Settles O43: a poll stores only by a payload step, whose state and byte the decoder gives back; a command stores
nothing. -/
theorem stepStoresOnlyIntoTheBoundBuffer : Obligations.StepStoresOnlyIntoTheBoundBuffer := by
  intro s t hstep
  obtain ⟨-, hpoll | hreset | hcmd | hwrite | hwait⟩ := step_cases hstep
  · obtain ⟨inputs, hr, -, hx⟩ := hpoll
    obtain ⟨rx, draws, e⟩ := poll_effect hx
    obtain hkept | ⟨base, b, hbound, hi | hi⟩ := e.mem_kept_or_payload
    · exact .inl hkept
    · have hevent := encode_of_decodePoll hi nofun nofun
      rw [hi] at e
      injection hevent with hst hanswer
      exact .inr (.inl ⟨base, b, hr, hbound, hanswer.symm, .inl ⟨hst.symm, e.rxD0_mem hbound⟩⟩)
    · have hevent := encode_of_decodePoll hi nofun nofun
      rw [hi] at e
      injection hevent with hst hanswer
      exact .inr (.inl ⟨base, b, hr, hbound, hanswer.symm, .inr ⟨hst.symm, e.rxData_mem hbound⟩⟩)
  · obtain ⟨inputs, -, rfl⟩ := hreset
    exact .inl rfl
  · obtain ⟨code, buf, inputs, -, hx⟩ := hcmd
    exact .inl ((exec_effect hx).command_mem (isCommand_decode_cmd code buf))
  · obtain ⟨addr, v, inputs, hr, hhost, rfl⟩ := hwrite
    exact .inr (.inr ⟨hr, addr, v, inputs, hhost, rfl⟩)
  · obtain ⟨inputs, -, -, rfl⟩ := hwait
    exact .inl rfl

/-- Settles O55: only a poll that is the accepting checksum step gives `Packet`, and in `AwaitChecksum` the invariants
give the full length and the running sum. -/
theorem packetResultMeansAChecksummedPayload : Obligations.PacketResultMeansAChecksummedPayload := by
  intro s t h hpayload hr hstep ht
  have hi : s.initDone = true := State.initDone_of_running hr
  have hres : s.res = none := h.noResult hr
  obtain ⟨-, hpoll | hreset | hcmd | hwrite | hwait⟩ := step_cases hstep
  · obtain ⟨inputs, -, -, hx⟩ := hpoll
    obtain ⟨rx, draws, e⟩ := poll_effect hx
    obtain ⟨hcks, herr⟩ := e.accepted_of_packet hres ht
    have hevent := encode_of_decodePoll hcks nofun nofun
    injection hevent with hst hanswer
    obtain ⟨base, d, hbound, hblock, hsum⟩ := hpayload hi (.inr hst.symm)
    have hlen : s.len.toNat = 128 := by simp [h.lenFull hi hst.symm]
    have hmem : t.mem = s.mem := e.mem_kept (by simp [hcks]) (by simp [hcks])
    rw [hlen, ← hmem] at hblock
    have hpolled : s.rxPoll.1 = some (checksumOf d) := hanswer.symm.trans (congrArg some hsum)
    exact ⟨base, d, hbound, Memory.readBlock_length hblock, hblock, hpolled, herr⟩
  · obtain ⟨inputs, -, rfl⟩ := hreset
    cases ht
  · obtain ⟨code, buf, inputs, -, hx⟩ := hcmd
    have hcommand := isCommand_decode_cmd code buf
    rw [((exec_effect hx).accepted_of_packet hres ht).1] at hcommand
    cases hcommand
  · obtain ⟨_, _, _, hnot, -⟩ := hwrite
    simp [hr] at hnot
  · obtain ⟨_, hnot, -⟩ := hwait
    simp [hr] at hnot

/-- Settles O33: the buffer write is looked at first, and its index is `len`. -/
theorem indexOutsideTheBufferFaults : Obligations.IndexOutsideTheBufferFaults := by
  intro s b hlen
  have hfault : s.bufWrite s.payloadIndex b = .fault .illegal := State.bufWrite_of_outside b hlen
  simp only [exec, execRxData, hfault, andThen]

end Sys2Proof.Proofs
end

section
/-! The encoding (30_encoding.md): decode and encode are inverse, for state codes, events and the bytes of the model's
layout (log entry 11). -/

namespace Sys2Proof

/-- Every state is the state of its code (R79). -/
@[simp] theorem PState.ofBits_toBits (p : PState) : PState.ofBits p.toBits = p := by
  cases p <;> rfl

/-- Every code is the code of its state (R79). -/
@[simp] theorem PState.toBits_ofBits (v : BitVec 3) : (PState.ofBits v).toBits = v := by
  revert v
  decide

/-- R75, R82: the byte of an `RX_IGNORE` is neither SOH nor EOT. -/
theorem Instr.wellFormed_rxIgnore {b : Byte} : (Instr.rxIgnore b).wellFormed = true ↔ b ≠ soh ∧ b ≠ eot := by
  simp [Instr.wellFormed, soh, eot]

/-- What is polled in `AwaitStart` selects a well-formed instruction: SOH and EOT are told apart first (R82). -/
theorem decodeStartByte_wellFormed (b : Byte) : (decodeStartByte b).wellFormed = true := by
  obtain ⟨-, hd⟩ | ⟨-, hd⟩ | ⟨hsoh, heot, hd⟩ := decodeStartByte_cases b <;> rw [hd]
  case inr.inr => exact Instr.wellFormed_rxIgnore.2 ⟨hsoh, heot⟩
  all_goals rfl

/-- Every answer in every state selects a well-formed instruction (R75). -/
theorem decodePoll_wellFormed (st : PState) (a : Answer) : (decodePoll st a).wellFormed = true := by
  cases st
  case idle | reserved => rfl
  all_goals
    cases a with
    | none => rfl
    | some b => ?_
  case awaitStart => exact decodeStartByte_wellFormed b
  all_goals rfl

/-- Every event selects a well-formed instruction (R77). -/
theorem decode_wellFormed (e : Event) : (decode e).wellFormed = true := by
  cases e with
  | cmd code buf => rcases cmdCode_cases code with rfl | rfl | rfl | rfl <;> rfl
  | poll st a => exact decodePoll_wellFormed st a

/-- A well-formed instruction is what its event selects (R71, R75). -/
theorem decode_encode {i : Instr} (hi : i.wellFormed = true) : decode (encode i) = i := by
  cases i with
  | rxIgnore b =>
    obtain ⟨hsoh, heot⟩ := Instr.wellFormed_rxIgnore.1 hi
    simp only [encode, decode, decodePoll, decodeStartByte, if_neg hsoh, if_neg heot]
  | _ => rfl

/-- A command's code is recovered from the instruction it selects, and for `RECV` the handle too (R71). -/
theorem encode_decodeCmd (code : BitVec 2) (buf : Nat) :
    ∃ buf', encode (decodeCmd code buf) = .cmd code buf' ∧ (code = 0b11#2 → buf' = buf) := by
  rcases cmdCode_cases code with rfl | rfl | rfl | rfl
  case inr.inr.inr => exact ⟨buf, rfl, fun _ => rfl⟩
  all_goals exact ⟨0, rfl, nofun⟩

/-- A byte polled in any state but 7 is recovered, with its state, from the instruction it selects (R75). -/
theorem encode_decodePoll_byte {st : PState} (b : Byte) (hst : st ≠ .reserved) :
    encode (decodePoll st (some b)) = .poll st (some b) := by
  cases st
  case idle => rfl
  case reserved => exact absurd rfl hst
  case awaitStart =>
    obtain ⟨-, hd⟩ | ⟨-, hd⟩ | ⟨-, -, hd⟩ := decodeStartByte_cases b <;>
      exact encode_of_decodePoll (i := decodeStartByte b) rfl (by simp [hd]) (by simp [hd])
  all_goals rfl

/-- The bare byte of a command's code is read as that command (log entry 11). -/
theorem tableEvent_setWidth (code : BitVec 2) (buf : Nat) : tableEvent (code.setWidth 8) buf = .cmd code buf := by
  rcases cmdCode_cases code with rfl | rfl | rfl | rfl <;> rfl

/-- A selector's tag is its upper five bits. -/
theorem selector_tag (tag : BitVec 5) (st : BitVec 3) : (tag ++ st).extractLsb' 3 5 = tag :=
  BitVec.extractLsb'_append_eq_left

/-- A selector's state is its lower three bits. -/
theorem selector_state (tag : BitVec 5) (st : BitVec 3) : (tag ++ st).setWidth 3 = st :=
  BitVec.setWidth_append_eq_right

/-- A selector with a tag is not the zero byte, which stands for a bare byte. -/
theorem selector_ne_zero {tag : BitVec 5} (st : BitVec 3) (htag : tag ≠ 0#5) : tag ++ st ≠ 0x00#8 := by
  intro h
  have hzero : tag = (0x00#8).extractLsb' 3 5 := by rw [← h, selector_tag]
  exact htag hzero

/-- The bytes of a command are read back as the command, with the handle that stands on `cmd_buf` (R70, log entry 11). -/
theorem eventOfBytes_bytesOfEvent_cmd (buf handle : Nat) (code : BitVec 2) (rest : List Byte) :
    eventOfBytes buf (bytesOfEvent (.cmd code handle) ++ rest) = .ok (.cmd code buf, rest) := by
  simp only [bytesOfEvent, List.cons_append, List.nil_append, eventOfBytes, if_pos, tableEvent_setWidth]

/-- The bytes of a poll are read back as the poll, whatever stands on `cmd_buf` (log entry 11). -/
theorem eventOfBytes_bytesOfEvent_poll (buf : Nat) (st : PState) (a : Answer) (rest : List Byte) :
    eventOfBytes buf (bytesOfEvent (.poll st a) ++ rest) = .ok (.poll st a, rest) := by
  cases a with
  | some b =>
    have hsel : 0b00010#5 ++ st.toBits ≠ 0x00#8 := selector_ne_zero _ (by decide)
    simp [bytesOfEvent, eventOfBytes, hsel, selector_tag, selector_state]
  | none =>
    have hsel : 0b00100#5 ++ st.toBits ≠ 0x00#8 := selector_ne_zero _ (by decide)
    simp [bytesOfEvent, eventOfBytes, hsel, selector_tag, selector_state]

/-- The bytes of an event decode to the instruction of the event, when the handle on `cmd_buf` selects the same. -/
theorem decodeBytes_bytesOfEvent {buf : Nat} {e : Event} (rest : List Byte)
    (hbuf : ∀ code handle, e = .cmd code handle → decode (.cmd code buf) = decode e) :
    decodeBytes buf (bytesOfEvent e ++ rest) = .ok (decode e, rest) := by
  cases e with
  | cmd code handle => simp only [decodeBytes, eventOfBytes_bytesOfEvent_cmd, hbuf code handle rfl]
  | poll st a => simp only [decodeBytes, eventOfBytes_bytesOfEvent_poll]

/-- Only `RECV` looks at the handle on `cmd_buf` (R71). -/
theorem decode_cmd_of_encode {i : Instr} {buf : Nat} (hbuf : ∀ b, i = .recv b → b = buf) (code : BitVec 2)
    (handle : Nat) (h : encode i = .cmd code handle) : decode (.cmd code buf) = decode (encode i) := by
  cases i <;> cases h
  case recv => rw [hbuf _ rfl]; rfl
  all_goals rfl

/-- A well-formed instruction is read back from its bytes, whatever follows them, with `RECV`'s handle on `cmd_buf`. -/
theorem decodeBytes_encodeBytes {i : Instr} {buf : Nat} (rest : List Byte) (hi : i.wellFormed = true)
    (hbuf : ∀ b, i = .recv b → b = buf) : decodeBytes buf (encodeBytes i ++ rest) = .ok (i, rest) := by
  calc decodeBytes buf (encodeBytes i ++ rest)
      _ = .ok (decode (encode i), rest) := decodeBytes_bytesOfEvent rest (decode_cmd_of_encode hbuf)
      _ = .ok (i, rest) := by rw [decode_encode hi]

/-- A table word decodes to an instruction where it stands for an event that selects it (log entry 11). -/
theorem decodeTableWord_eq_some {nbits w : Nat} {i : Instr} (h : decodeTableWord nbits w = some i) :
    ∃ e, eventOfTableWord nbits w = some e ∧ decode e = i := by
  simp only [decodeTableWord] at h
  split at h
  · next e he => exact ⟨e, he, Option.some.inj h⟩
  · cases h

end Sys2Proof
end

section
/-! A placed event (log entry 11): the next step takes it, whatever the state it was placed in. -/

namespace Sys2Proof.Machine

variable {s : State}

/-- A placed command is presented at the next step, in a state that does not hold 7 (R77). -/
theorem step_place_cmd (code : BitVec 2) (buf : Nat) :
    step (s.place (.cmd code buf)) =
      exec (decode (.cmd code buf)) { s with st := if s.holdsReserved then .idle else s.st } := by
  have hlegal : (s.place (.cmd code buf)).holdsReserved = false := by
    change (s.initDone && decide ((if s.holdsReserved then PState.idle else s.st) = .reserved)) = false
    cases hs : s.holdsReserved with
    | true => simp
    | false => exact hs
  exact step_of_fetch_event hlegal (State.fetch_of_cmdNoWait rfl)

/-- A placed poll is the poll of the next step; in state 7 the step faults as its `RX_ILLEGAL` does (R77, R122). -/
theorem step_place_poll (st : PState) (a : Answer) :
    step (s.place (.poll st a)) =
      exec (decode (.poll st a))
        { s with st := st, busy := true, initDone := true, bound := some (s.bound.getD 0) } := by
  by_cases hst : st = .reserved
  · subst hst
    rfl
  · have hlegal : (s.place (.poll st a)).holdsReserved = false := by simp [State.place, State.holdsReserved, hst]
    exact (step_of_pass hlegal rfl rfl).trans rfl

/-- The step after placing an event runs the instruction the event selects, on a state that differs from the given one at
most in what a poll's event needs. -/
theorem step_place (e : Event) :
    ∃ u, step (s.place e) = exec (decode e) u ∧
      u = { s with st := u.st, busy := u.busy, initDone := u.initDone, bound := u.bound } := by
  cases e with
  | cmd code buf => exact ⟨_, step_place_cmd code buf, rfl⟩
  | poll st a => exact ⟨_, step_place_poll st a, rfl⟩

end Sys2Proof.Machine
end

section

namespace Sys2Proof.Proofs
open Sys2Proof.Machine

/-- Settles O6: decode of encode, for the event and for its bytes. -/
theorem encodedInstructionsDecodeBack : Obligations.EncodedInstructionsDecodeBack := by
  intro i hi
  exact ⟨decode_encode hi, fun buf rest hbuf => decodeBytes_encodeBytes rest hi hbuf⟩

/-- Settles O7: what is decoded is well-formed, and encode recovers the byte and the command's code. -/
theorem decodedInstructionsKeepTheirEvent : Obligations.DecodedInstructionsKeepTheirEvent :=
  ⟨decode_wellFormed, fun _ b hst => encode_decodePoll_byte b hst, encode_decodeCmd⟩

/-- Settles O9: the word stands for an event, and the step after placing an event runs its instruction. -/
theorem placedTableWordRunsNext : Obligations.PlacedTableWordRunsNext := by
  intro s nbits w i hword
  obtain ⟨e, he, rfl⟩ := decodeTableWord_eq_some hword
  have hplaced : s.withFetchWord nbits w = s.place e := by
    simp only [State.withFetchWord, State.placeTableWord, he]
  rw [hplaced]
  exact step_place e

/-- Settles O1: code by code. -/
theorem commandCodesSelectCommands : Obligations.CommandCodesSelectCommands :=
  fun _ => ⟨rfl, rfl, rfl, rfl⟩

/-- Settles O2: state by state. -/
theorem receiveEventsDecodeByStateAndAnswer : Obligations.ReceiveEventsDecodeByStateAndAnswer := by
  refine ⟨?emptyPoll, fun b => ⟨rfl, rfl, rfl, rfl, rfl, rfl⟩, fun a => ⟨rfl, rfl⟩⟩
  case emptyPoll =>
    intro st hidle hreserved
    cases st
    case idle => exact absurd rfl hidle
    case reserved => exact absurd rfl hreserved
    all_goals rfl

/-- Settles O3: the table by computation, the inverses by cases on the state and on the code. -/
theorem stateCodesAreInOrder : Obligations.StateCodesAreInOrder :=
  ⟨⟨rfl, rfl, rfl, rfl, rfl, rfl, rfl, rfl⟩, PState.ofBits_toBits, PState.toBits_ofBits⟩

/-- Settles O5: each word is fixed, so the decoder computes its instruction. -/
theorem tableWordsDecode : Obligations.TableWordsDecode := by
  refine ⟨?_, ?_, ?_, ?_, ?_, ?_, ?_, ?_, ?_, ?_, ?_, ?_, ?_, ?_, ?_⟩ <;> decide

end Sys2Proof.Proofs
end

section
/-! A frame taken whole (30_encoding.md R74, 41_receive_fsm.md R132): the state after its header, after each payload byte
and before its checksum, as equations, for any sequence, complement and data. -/

namespace Sys2Proof.Machine

/-- The bytes written one after another from `base` on (R52). -/
def Memory.writeBlock (base : Nat) : List Byte → List Host.Cell → List Host.Cell
  | [], m => m
  | b :: d, m => writeBlock (base + 1) d (Memory.write base b m)

/-- One more byte of a block is written just past it. -/
theorem Memory.writeBlock_concat (base : Nat) (d : List Byte) (b : Byte) (m : List Host.Cell) :
    writeBlock base (d ++ [b]) m = write (base + d.length) b (writeBlock base d m) := by
  induction d generalizing base m with
  | nil => rfl
  | cons x d ih => simp only [List.cons_append, writeBlock, ih, List.length_cons, Nat.add_assoc, Nat.add_comm 1]

/-- A block written is read back. -/
theorem Memory.readBlock_writeBlock (base : Nat) (d : List Byte) (m : List Host.Cell) :
    readBlock base (writeBlock base d m) d.length = some d := by
  induction d using List.reverseRecOn with
  | nil => rfl
  | append_singleton d b ih =>
    rw [writeBlock_concat, List.length_append]
    exact readBlock_write_next ih

/-- A block written leaves every byte outside it. -/
theorem Memory.read_writeBlock_outside {base addr : Nat} (d : List Byte) (m : List Host.Cell)
    (h : addr < base ∨ base + d.length ≤ addr) : read addr (writeBlock base d m) = read addr m := by
  induction d generalizing base m with
  | nil => rfl
  | cons b d ih =>
    rw [List.length_cons] at h
    rw [writeBlock, ih _ (by omega), read_write_other (by omega)]

/-- What a header leaves in `err`, which SOH has cleared: whether either of its checks fails (R157). -/
def State.headerError (s : State) (seq comp : Byte) : Bool := !s.seqOK seq || !s.compOK comp

/-- The call in `s` within a frame's header: in state `p`, `err` as the checks so far leave it, the answers `rx` to come
(R123, R126, R127). -/
def State.inHeader (s : State) (p : PState) (err : Bool) (rx : List Answer) : State :=
  { s with st := p, err := err, trSeen := true, rx := rx }

/-- The call in `s` on the buffer at `base`, after a header that leaves `err` and the payload bytes `d`, at least one,
with the answers `rx` to come (R128, R129). -/
def State.afterPayload (s : State) (base : Nat) (err : Bool) (d : List Byte) (rx : List Answer) : State :=
  { s with
    st := if d.length = payloadLen then .awaitChecksum else .accumulatingData, err := err, csum := checksumOf d,
    len := BitVec.ofNat 8 d.length, trSeen := true, mem := Memory.writeBlock base d s.mem, rx := rx }

/-- `RX_D0` with a buffer bound (R128). -/
theorem execRxD0_of_bound {s : State} {base : Nat} (b : Byte) (hbound : s.bound = some base) :
    execRxD0 b s =
      .next ({ s with mem := Memory.write base b s.mem, csum := b, len := 0x01#8 }.moveTo .accumulatingData) := by
  have hwrite := State.bufWrite_of_bound b (show 0 < 128 by decide) hbound
  simp only [execRxD0, hwrite, andThen, Nat.add_zero]

/-- `RX_DATA` with a buffer bound and the index in range (R129). -/
theorem execRxData_of_bound {s : State} {base : Nat} (b : Byte) (hindex : s.payloadIndex < 128)
    (hbound : s.bound = some base) :
    execRxData b s =
      let u := { s with
        mem := Memory.write (base + s.payloadIndex) b s.mem, csum := addChecksum s.csum b, len := s.len + 0x01#8 }
      .next (if s.len + 0x01#8 = 128#8 then u.moveTo .awaitChecksum else u) := by
  simp only [execRxData, State.bufWrite_of_bound b hindex hbound, andThen]

/-- `RX_CKS` on a byte that passes the checks (R130, R154). -/
theorem execRxCks_of_accepts {s : State} {b : Byte} (h : s.accepts b = true) :
    execRxCks b s = .next (s.moveTo .awaitStart).acceptPacket := by
  simp only [execRxCks, h, if_true]

/-- A length below 128 counts one further without wrapping, and meets 128 as a number does (R38). -/
theorem ofNat_add_one_eq_128 {n : Nat} (hn : n < 128) : BitVec.ofNat 8 n + 0x01#8 = 128#8 ↔ n + 1 = 128 := by
  rw [← BitVec.toNat_inj, BitVec.toNat_add, BitVec.toNat_ofNat, BitVec.toNat_ofNat, BitVec.toNat_ofNat]
  omega

section
variable {s : State} (hr : s.running = true) (hw : s.hostWaits = true)
include hr hw

/-- In a call with the host waiting the next listed answer runs the instruction it selects (R120). -/
theorem step_of_answer {p : PState} {a : Answer} {rest : List Answer} (hst : s.st = p) (hp : p ≠ .reserved)
    (hrx : s.rx = a :: rest) : step s = exec (decodePoll p a) { s with rx := rest } := by
  have hlegal : s.holdsReserved = false := by simp [State.holdsReserved, hst, hp]
  rw [step_of_hostWaits hlegal hr hw, State.rxPoll_cons hrx, hst]
  rfl

/-- The three header bytes, in three polls (R123, R126, R127). -/
theorem steps_header {seq comp : Byte} {rest : List Answer} (hst : s.st = .awaitStart)
    (hrx : s.rx = some 0x01#8 :: some seq :: some comp :: rest) :
    steps 3 s = .next (s.inHeader .compSeqSeen (s.headerError seq comp) rest) := by
  have hsoh : step s = .next (s.inHeader .sohSeen false (some seq :: some comp :: rest)) :=
    step_of_answer hr hw hst nofun hrx
  have hseq : step (s.inHeader .sohSeen false (some seq :: some comp :: rest)) =
      .next (s.inHeader .seqSeen (!s.seqOK seq) (some comp :: rest)) :=
    step_of_answer (s := s.inHeader .sohSeen _ _) hr hw rfl nofun rfl
  have hcomp : step (s.inHeader .seqSeen (!s.seqOK seq) (some comp :: rest)) =
      .next (s.inHeader .compSeqSeen (s.headerError seq comp) rest) :=
    step_of_answer (s := s.inHeader .seqSeen _ _) hr hw rfl nofun rfl
  exact (steps_of_step hsoh 2).trans ((steps_of_step hseq 1).trans (steps_of_step hcomp 0))

/-- The first payload byte, in one poll (R128). -/
theorem step_firstPayloadByte {base : Nat} {err : Bool} {b : Byte} {rest : List Answer} (hbound : s.bound = some base) :
    step (s.inHeader .compSeqSeen err (some b :: rest)) = .next (s.afterPayload base err [b] rest) := by
  have hstep : step (s.inHeader .compSeqSeen err (some b :: rest)) = execRxD0 b (s.inHeader .compSeqSeen err rest) :=
    step_of_answer (s := s.inHeader .compSeqSeen _ _) hr hw rfl nofun rfl
  rw [hstep, execRxD0_of_bound (s := s.inHeader .compSeqSeen err rest) b hbound]
  simp [State.inHeader, State.afterPayload, State.moveTo, payloadLen, checksumOf, addChecksum, Memory.writeBlock]

/-- A later payload byte, in one poll (R129). -/
theorem step_laterPayloadByte {base : Nat} {err : Bool} {d : List Byte} {b : Byte} {rest : List Answer}
    (hbound : s.bound = some base) (hd : d.length < 128) :
    step (s.afterPayload base err d (some b :: rest)) = .next (s.afterPayload base err (d ++ [b]) rest) := by
  have hst : (s.afterPayload base err d (some b :: rest)).st = .accumulatingData :=
    if_neg (Nat.ne_of_lt hd)
  have hindex : (s.afterPayload base err d rest).payloadIndex = d.length := by
    simp only [State.payloadIndex, State.afterPayload, BitVec.toNat_ofNat]
    omega
  have hstep : step (s.afterPayload base err d (some b :: rest)) = execRxData b (s.afterPayload base err d rest) :=
    step_of_answer (s := s.afterPayload base err d _) hr hw hst nofun rfl
  rw [hstep, execRxData_of_bound (s := s.afterPayload base err d rest) b (by rw [hindex]; exact hd) hbound, hindex]
  by_cases hfull : d.length + 1 = 128
  · have hlen := (ofNat_add_one_eq_128 hd).2 hfull
    simp [State.afterPayload, State.moveTo, Memory.writeBlock_concat, checksumOf_append, payloadLen, hfull, hlen]
  · have hlen := mt (ofNat_add_one_eq_128 hd).1 hfull
    simp [State.afterPayload, Memory.writeBlock_concat, checksumOf_append, payloadLen, Nat.ne_of_lt hd, hfull, hlen,
      BitVec.ofNat_add]

/-- The payload bytes after the first, one poll each (R129). -/
theorem steps_payload {base : Nat} {err : Bool} {rest : List Answer} (hbound : s.bound = some base) (l d : List Byte)
    (hlen : d.length + l.length = 128) :
    steps l.length (s.afterPayload base err d (l.map some ++ rest)) =
      .next (s.afterPayload base err (d ++ l) rest) := by
  induction l generalizing d with
  | nil => simp [steps]
  | cons b l ih =>
    rw [List.length_cons] at hlen
    have hstep : step (s.afterPayload base err d (some b :: (l.map some ++ rest))) = _ :=
      step_laterPayloadByte hr hw hbound (by omega)
    have hrun := ih (d ++ [b]) (by rw [List.length_append, List.length_singleton]; omega)
    rw [List.append_assoc] at hrun
    exact (steps_of_step hstep l.length).trans hrun

/-- A frame up to its checksum byte, in 131 polls: a header that may leave `err`, and 128 payload bytes (R132). -/
theorem steps_frame_before_checksum {base : Nat} {seq comp cks : Byte} {d : List Byte} {rest : List Answer}
    (hst : s.st = .awaitStart) (hbound : s.bound = some base) (hd : d.length = 128)
    (hrx : s.rx = frame seq comp d cks ++ rest) :
    steps 131 s = .next (s.afterPayload base (s.headerError seq comp) d (some cks :: rest)) := by
  cases d with
  | nil => cases hd
  | cons b l =>
    have hl : l.length = 127 := Nat.succ.inj hd
    have hrx' : s.rx = some 0x01#8 :: some seq :: some comp :: some b :: (l.map some ++ some cks :: rest) := by
      simp [hrx, frame]
    have hfirst := step_firstPayloadByte hr hw (err := s.headerError seq comp) (b := b)
      (rest := l.map some ++ some cks :: rest) hbound
    have hpayload := steps_payload hr hw (err := s.headerError seq comp) (rest := some cks :: rest) hbound l [b]
      (by simp [hl])
    rw [hl] at hpayload
    calc steps (3 + (127 + 1)) s
        _ = steps (127 + 1) _ := steps_of_steps (steps_header hr hw hst hrx') _
        _ = steps 127 _ := steps_of_step hfirst 127
        _ = _ := hpayload

/-- A frame's checksum byte, in one poll (R130). -/
theorem step_checksumByte {base : Nat} {err : Bool} {d : List Byte} {cks : Byte} {rest : List Answer}
    (hd : d.length = 128) :
    step (s.afterPayload base err d (some cks :: rest)) = execRxCks cks (s.afterPayload base err d rest) :=
  step_of_answer (s := s.afterPayload base err d _) hr hw (if_pos hd) nofun rfl

end

end Sys2Proof.Machine
end

section

namespace Sys2Proof.Proofs
open Sys2Proof.Machine

/-- Settles O48: the header leaves `err` clear, 128 bytes are stored and summed, and the checksum byte meets the sum. -/
theorem goodFrameIsDelivered : Obligations.GoodFrameIsDelivered := by
  intro s base d rest hr hw hst hbound hd hrx
  have hheader : s.headerError s.eseq (0xFF#8 - s.eseq) = false := by
    simp [State.headerError, State.seqOK, State.compOK]
  have hframe : steps 131 s = .next (s.afterPayload base false d (some (checksumOf d) :: rest)) := by
    rw [steps_frame_before_checksum hr hw hst hbound hd hrx, hheader]
  have haccepts : (s.afterPayload base false d rest).accepts (checksumOf d) = true := by
    simp [State.accepts, State.afterPayload]
  have hlast := (step_checksumByte hr hw hd).trans (execRxCks_of_accepts haccepts)
  have hrun := (steps_of_steps hframe 1).trans (steps_of_step hlast 0)
  have hblock := Memory.readBlock_writeBlock base d s.mem
  rw [hd] at hblock
  refine ⟨_, hrun, rfl, rfl, rfl, rfl, rfl, rfl, rfl, hblock, fun addr haddr => ?_⟩
  exact Memory.read_writeBlock_outside d s.mem (by rwa [hd])

end Sys2Proof.Proofs
end

section
/-! The commands (40_commands.md R100 to R108): when each is accepted, refused or a fault, as equations. -/

namespace Sys2Proof.Machine

variable {s : State} {k : State → State}

/-- R104, R106: initialised and with no call in progress, START, ACK and RECV take effect, `res` cleared first. -/
theorem State.accept_of_ready (hi : s.initDone = true) (hb : s.busy = false) :
    s.accept k = .next (k { s with res := none }) := by
  simp [State.accept, hi, hb]

/-- R105, R176: before the first INIT they are refused, and `busy` is not looked at. -/
theorem State.accept_of_not_initDone (hi : s.initDone = false) : s.accept k = .refused .notInit := by
  simp [State.accept, hi]

/-- R104: in a call they fault. -/
theorem State.accept_of_running (hr : s.running = true) : s.accept k = .fault .cmdBusy := by
  simp [State.accept, State.initDone_of_running hr, State.busy_of_running hr]

/-- R100, R105: INIT takes effect whenever no call is in progress. -/
theorem State.acceptInit_of_not_running (hr : s.running = false) : s.acceptInit k = .next (k s) := by
  have hready : ¬(s.initDone && s.busy) = true := ne_true_of_eq_false hr
  exact if_neg hready

/-- R104: in a call INIT faults. -/
theorem State.acceptInit_of_running (hr : s.running = true) : s.acceptInit k = .fault .cmdBusy :=
  if_pos hr

/-- A call is in progress only after the first INIT (R191). -/
theorem State.not_running_of_not_initDone (hi : s.initDone = false) : s.running = false := by
  simp [State.running, hi]

/-- No call is in progress while `busy` is 0 (R31). -/
theorem State.not_running_of_not_busy (hb : s.busy = false) : s.running = false := by
  simp [State.running, hb]

/-- R100: INIT with no call in progress. -/
theorem exec_init_of_not_running (hr : s.running = false) : exec .init s = .next s.initialise :=
  State.acceptInit_of_not_running hr

/-- R104 to R106: the host commands but INIT share one acceptance. -/
theorem exec_command_eq_accept {i : Instr} (hc : Laws.isCommand i = true) (hinit : i ≠ .init) (s : State) :
    ∃ k, exec i s = s.accept k := by
  cases i with
  | init => exact absurd rfl hinit
  | start => exact ⟨_, show execStart s = s.accept _ from rfl⟩
  | ack => exact ⟨_, show execAck s = s.accept _ from rfl⟩
  | recv buf => exact ⟨_, show execRecv buf s = s.accept _ from rfl⟩
  | _ => cases hc

/-- R105: before the first INIT every other host command is refused. -/
theorem exec_command_of_not_initDone {i : Instr} (hc : Laws.isCommand i = true) (hinit : i ≠ .init)
    (hi : s.initDone = false) : exec i s = .refused .notInit := by
  obtain ⟨_, heq⟩ := exec_command_eq_accept hc hinit s
  exact heq.trans (State.accept_of_not_initDone hi)

/-- R104: every host command in a call is the fault `F_CMD_BUSY`. -/
theorem exec_command_of_running {i : Instr} (hc : Laws.isCommand i = true) (hr : s.running = true) :
    exec i s = .fault .cmdBusy := by
  by_cases hinit : i = .init
  · subst hinit
    exact State.acceptInit_of_running hr
  · obtain ⟨_, heq⟩ := exec_command_eq_accept hc hinit s
    exact heq.trans (State.accept_of_running hr)

/-- R104, R105: every host command completes when initialised and with no call in progress. -/
theorem exec_command_of_ready {i : Instr} (hc : Laws.isCommand i = true) (hi : s.initDone = true)
    (hb : s.busy = false) : ∃ t, exec i s = .next t := by
  by_cases hinit : i = .init
  · subst hinit
    exact ⟨_, exec_init_of_not_running (State.not_running_of_not_busy hb)⟩
  · obtain ⟨_, heq⟩ := exec_command_eq_accept hc hinit s
    exact ⟨_, heq.trans (State.accept_of_ready hi hb)⟩

end Sys2Proof.Machine
end

section

namespace Sys2Proof.Proofs
open Sys2Proof.Machine

/-- Settles O37: only the payload steps write memory. -/
theorem onlyPayloadStepsStore : Obligations.OnlyPayloadStepsStore := by
  intro i s t h h0 hdata
  have hmem : t.mem = s.mem := (exec_effect h).mem_kept h0 hdata
  exact ⟨hmem, fun addr => by rw [hmem]⟩

/-- Settles O38: outcome by outcome; of the two of the checksum step only the reject sends (R130). -/
theorem fourActionsTransmit : Obligations.FourActionsTransmit := by
  intro i s t h
  cases exec_effect h with
  | cksAccept herr => exact (if_pos ⟨rfl, herr⟩).symm
  | @cksReject b hbad =>
    have hfails : ¬(b = s.csum ∧ s.err = false) := fun ⟨hsum, herr⟩ => by simp [hsum, herr] at hbad
    exact (if_neg hfails).symm
  | _ => rfl

/-- Settles O15: where `init_done` and `busy` are not both 1 no call is in progress. -/
theorem initInitialises : Obligations.InitInitialises := by
  intro s hready
  have hr : s.running = false := by
    cases hi : s.initDone with
    | false => exact State.not_running_of_not_initDone hi
    | true => exact State.not_running_of_not_busy (hready hi)
  exact exec_init_of_not_running hr

/-- Settles O16: START is accepted, and its effect is the NAK and `AwaitStart`. -/
theorem startSendsNakAndAwaits : Obligations.StartSendsNakAndAwaits := by
  intro s hi hb
  change execStart s = _
  exact State.accept_of_ready hi hb

/-- Settles O17: ACK is accepted, and its effect is the ACK and `AwaitStart`. -/
theorem ackSendsAckAndAwaits : Obligations.AckSendsAckAndAwaits := by
  intro s hi hb
  change execAck s = _
  exact State.accept_of_ready hi hb

/-- Settles O19: RECV is accepted, and outside `Idle` it begins the call. -/
theorem recvBeginsCall : Obligations.RecvBeginsCall := by
  intro s buf hi hb hst
  calc execRecv buf s
      _ = .next (if s.st = .idle then { s with res := some .stateError }
            else ({ s with res := none } : State).beginCall buf) := State.accept_of_ready hi hb
      _ = .next (({ s with res := none } : State).beginCall buf) := by rw [if_neg hst]

/-- Settles O20: the acceptance of each command before the first INIT, and of INIT afterwards. -/
theorem commandsBeforeInitAreRefused : Obligations.CommandsBeforeInitAreRefused := by
  constructor
  · intro s buf hi
    exact ⟨exec_command_of_not_initDone rfl nofun hi, exec_command_of_not_initDone rfl nofun hi,
      exec_command_of_not_initDone rfl nofun hi, exec_init_of_not_running (State.not_running_of_not_initDone hi)⟩
  · intro s _ hb
    exact exec_init_of_not_running (State.not_running_of_not_busy hb)

/-- Settles O21: what the command port decodes is a host command; one presented without waiting is fetched in a call. -/
theorem commandsInCallFault : Obligations.CommandsInCallFault := by
  constructor
  · intro s code buf inputs hi hb
    have hr : s.running = true := by simp [State.running, hi, hb]
    have hcmd := isCommand_decode_cmd code buf
    refine ⟨by simp [State.cmdReady, hb], exec_command_of_running hcmd hr, fun hst hhost => ?_⟩
    have hlegal : s.holdsReserved = false := by simp [State.holdsReserved, hst]
    calc step s
        _ = exec (decode (.cmd code buf)) { s with host := inputs } :=
          step_of_fetch_event hlegal (State.fetch_of_cmdNoWait hhost)
        _ = .fault .cmdBusy := exec_command_of_running hcmd hr
  · intro s code buf hi hb
    exact ⟨by simp [State.cmdReady, hb], exec_command_of_ready (isCommand_decode_cmd code buf) hi hb⟩

end Sys2Proof.Proofs
end

section
/-! The receive events (41_receive_fsm.md R121 to R130), as equations: what each leaves of the state it occurs in. -/

namespace Sys2Proof

/-- An empty poll in a state of a call is `RX_NONE` (R75). -/
theorem decodePoll_none {st : PState} (hidle : st ≠ .idle) (hlegal : st ≠ .reserved) : decodePoll st none = .rxNone :=
  Proofs.receiveEventsDecodeByStateAndAnswer.1 st hidle hlegal

/-- `RX_NONE` is selected by an empty poll only (R75). -/
theorem answer_none_of_decodePoll {st : PState} {a : Answer} (h : decodePoll st a = .rxNone) : a = none := by
  cases a with
  | none => rfl
  | some b =>
    cases st
    case awaitStart =>
      obtain ⟨-, hd⟩ | ⟨-, hd⟩ | ⟨-, -, hd⟩ := decodeStartByte_cases b <;> cases hd.symm.trans h
    all_goals cases h

/-- A byte in `AwaitStart` that is neither SOH nor EOT is `RX_IGNORE` (R75, R82). -/
theorem decodePoll_ignored {b : Byte} (hsoh : b ≠ 0x01#8) (heot : b ≠ 0x04#8) :
    decodePoll .awaitStart (some b) = .rxIgnore b := by
  obtain ⟨h, -⟩ | ⟨h, -⟩ | ⟨-, -, hd⟩ := decodeStartByte_cases b
  · exact absurd h hsoh
  · exact absurd h heot
  · exact hd

end Sys2Proof

namespace Sys2Proof.Machine

variable {s : State} {b : Byte}

/-- Only the code 7 is the reserved one (R77). -/
theorem State.holdsReserved_of_ne (h : s.st ≠ .reserved) : s.holdsReserved = false := by
  simp [State.holdsReserved, h]

/-- A poll step that changes `st` sets `tr_seen` (R120, R30). -/
theorem State.moveTo_of_ne {p : PState} (h : p ≠ s.st) : s.moveTo p = { s with st := p, trSeen := true } := by
  simp [State.moveTo, h]

/-- A poll step that keeps `st` keeps `tr_seen` (R120, R30). -/
theorem State.moveTo_self {p : PState} (h : s.st = p) : s.moveTo p = s := by
  subst h
  simp [State.moveTo]

/-- A header check keeps `err` where it passes and sets it where it fails (R126, R127). -/
theorem State.noteCheck_of_iff {ok : Bool} {P : Prop} [Decidable P] (h : ok = true ↔ P) :
    s.noteCheck ok = { s with err := if P then s.err else true } := by
  by_cases hp : P
  · simp [State.noteCheck, h.2 hp, hp]
  · have hok : ok = false := by simpa using mt h.1 hp
    simp [State.noteCheck, hok, hp]

/-- The sequence check passes on `eseq` alone (R152). -/
theorem State.seqOK_iff : s.seqOK b = true ↔ b = s.eseq := by
  simp [State.seqOK]

/-- The complement check passes on `0xFF - eseq` alone (R153). -/
theorem State.compOK_iff : s.compOK b = true ↔ b = 0xFF#8 - s.eseq := by
  simp [State.compOK]

/-- No byte is above 255, so the complement byte is the number `255 - eseq` (R127, R153). -/
theorem State.compOK_iff_toNat : s.compOK b = true ↔ b.toNat = 255 - s.eseq.toNat := by
  rw [State.compOK_iff]
  bv_omega

/-- The packet is accepted on the running sum with `err` clear (R154). -/
theorem State.accepts_iff : s.accepts b = true ↔ b = s.csum ∧ s.err = false := by
  simp [State.accepts]

/-- Any error rejects the packet (R155). -/
theorem State.accepts_eq_false_iff : s.accepts b = false ↔ b ≠ s.csum ∨ s.err = true := by
  rw [← Bool.not_eq_true, State.accepts_iff, not_and_or, Bool.not_eq_false]

/-- `RX_CKS` on a byte that fails the checks (R130, R155). -/
theorem execRxCks_of_rejects (h : s.accepts b = false) :
    execRxCks b s = .next (s.moveTo .awaitStart).rejectPacket := by
  simp [execRxCks, h]

/-- The length meets 128 exactly after index 127, at any value of the byte (R129, C1). -/
theorem len_add_one_eq_128 {len : Byte} : len + 0x01#8 = 128#8 ↔ len.toNat + 1 = 128 := by
  bv_omega

/-- The empty poll leaves `st` (R121). -/
theorem State.emptyPoll_st (threshold greatest : Nat) : (s.emptyPoll threshold greatest).st = s.st := by
  obtain ⟨-, -, e⟩ | ⟨-, e⟩ := s.emptyPoll_cases threshold greatest
  · rw [e, State.complete_st]
  · rw [e]

/-- Once a transition has occurred an empty poll only counts (R121, R133). -/
theorem State.emptyPoll_of_trSeen (threshold greatest : Nat) (htr : s.trSeen = true) :
    s.emptyPoll threshold greatest = { s with nodata := min (s.nodata + 1) greatest } := by
  obtain ⟨hn, -⟩ | ⟨-, e⟩ := s.emptyPoll_cases threshold greatest
  · simp [htr] at hn
  · exact e

/-- Below the threshold an empty poll only counts, and the counter does not saturate (R121, D8). -/
theorem State.emptyPoll_of_lt (hn : s.nodata < Config.nodataThreshold) :
    s.emptyPoll Config.nodataThreshold Config.nodataMax = { s with nodata := s.nodata + 1 } := by
  have hfits : min (s.nodata + 1) Config.nodataMax = s.nodata + 1 := by
    have hwidth := threshold_lt_nodataMax
    omega
  obtain ⟨-, hlt, -⟩ | ⟨-, e⟩ := s.emptyPoll_cases Config.nodataThreshold Config.nodataMax
  · omega
  · rw [e, hfits]

/-- At the threshold an empty poll before any transition ends the call (R121). -/
theorem State.emptyPoll_of_eq (hn : s.nodata = Config.nodataThreshold) (htr : s.trSeen = false) :
    s.emptyPoll Config.nodataThreshold Config.nodataMax =
      ({ s with nodata := Config.nodataThreshold + 1 } : State).complete .noTransfer := by
  have hfits : min (s.nodata + 1) Config.nodataMax = Config.nodataThreshold + 1 := by
    have hwidth := threshold_lt_nodataMax
    omega
  obtain ⟨-, -, e⟩ | ⟨hnot, -⟩ := s.emptyPoll_cases Config.nodataThreshold Config.nodataMax
  · rw [e, hfits]
  · exact absurd ⟨htr, by omega⟩ hnot

end Sys2Proof.Machine
end

section
/-! The polls of a call (41_receive_fsm.md R131 to R134): each completes, which of them end it, and runs of empty polls. -/

namespace Sys2Proof.Machine

variable {s t : State}

/-- A call holds a buffer (R55). -/
theorem State.Inv.bound_some (h : s.Inv) (hr : s.running = true) : ∃ base, s.bound = some base := by
  have hheld := h.bufferHeld (State.initDone_of_running hr)
  rw [State.busy_of_running hr] at hheld
  exact Option.isSome_iff_exists.1 hheld

/-- A byte polled in `AwaitStart` completes and moves by the table (R123, R124, R125, R131). -/
theorem exec_decodeStartByte_next (hst : s.st = .awaitStart) (b : Byte) :
    ∃ t, exec (decodeStartByte b) s = .next t ∧ t.st = nextProtocolState .awaitStart (some b) s.len := by
  obtain ⟨rfl, hd⟩ | ⟨rfl, hd⟩ | ⟨hsoh, heot, hd⟩ := decodeStartByte_cases b <;> rw [hd]
  · exact ⟨_, rfl, rfl⟩
  · exact ⟨_, rfl, rfl⟩
  · have htable : nextProtocolState .awaitStart (some b) s.len = .awaitStart :=
      (if_neg hsoh).trans (if_neg heot)
    exact ⟨s, rfl, hst.trans htable.symm⟩

/-- A payload byte after the first completes, and the one stored at index 127 moves to `AwaitChecksum` (R129, R131). -/
theorem exec_rxData_next {base : Nat} (hbound : s.bound = some base) (hlen : s.len.toNat ≤ 127)
    (hst : s.st = .accumulatingData) (b : Byte) :
    ∃ t, exec (.rxData b) s = .next t ∧ t.st = nextProtocolState .accumulatingData (some b) s.len := by
  refine ⟨_, execRxData_of_bound b (Nat.lt_succ_of_le hlen) hbound, ?_⟩
  by_cases hlast : s.len.toNat + 1 = 128
  · rw [if_pos (len_add_one_eq_128.2 hlast)]
    exact (if_pos hlast).symm
  · rw [if_neg (mt len_add_one_eq_128.1 hlast)]
    exact hst.trans (if_neg hlast).symm

/-- In a state of a call that meets the invariant, the instruction that any answer selects completes and moves by the
next-state table (R131). -/
theorem exec_decodePoll_next (h : s.Inv) (hr : s.running = true) (a : Answer) :
    ∃ t, exec (decodePoll s.st a) s = .next t ∧ t.st = nextProtocolState s.st a s.len := by
  have hi : s.initDone = true := State.initDone_of_running hr
  obtain ⟨base, hbound⟩ := h.bound_some hr
  cases a with
  | none =>
    rw [decodePoll_none (h.inCall hr) (h.legal hi)]
    exact ⟨_, rfl, State.emptyPoll_st _ _⟩
  | some b =>
    cases hst : s.st
    case idle => exact absurd hst (h.inCall hr)
    case reserved => exact absurd hst (h.legal hi)
    case awaitStart => exact exec_decodeStartByte_next hst b
    case sohSeen => exact ⟨_, rfl, rfl⟩
    case seqSeen => exact ⟨_, rfl, rfl⟩
    case compSeqSeen => exact ⟨_, execRxD0_of_bound b hbound, rfl⟩
    case accumulatingData => exact exec_rxData_next hbound (h.lenInData hi hst).2 hst b
    case awaitChecksum =>
      cases hb : s.accepts b with
      | true => exact ⟨_, execRxCks_of_accepts hb, rfl⟩
      | false => exact ⟨_, execRxCks_of_rejects hb, rfl⟩

/-- R134: the instructions that end a call in progress, each with the state it leaves. -/
theorem ExecEffect.call_ending {i : Instr} (e : ExecEffect s i t) (hr : s.running = true) (ht : t.busy = false) :
    (i = .rxCks s.csum ∧ s.err = false ∧ t = (s.moveTo .awaitStart).acceptPacket) ∨
    (i = .rxEot ∧ t = s.finishTransfer eotNextState) ∨
    (i = .rxNone ∧ s.trSeen = false ∧ Config.nodataThreshold < min (s.nodata + 1) Config.nodataMax ∧
      t = ({ s with nodata := min (s.nodata + 1) Config.nodataMax } : State).complete .noTransfer) := by
  have hb : s.busy = true := State.busy_of_running hr
  cases e with
  | cksAccept herr => exact .inl ⟨rfl, herr, rfl⟩
  | eot => exact .inr (.inl ⟨rfl, rfl⟩)
  | noneEnds htr hn => exact .inr (.inr ⟨rfl, htr, hn, rfl⟩)
  | init hnot => simp [hr] at hnot
  | recvCall _ hnb => simp [hb] at hnb
  | _ => exact absurd (hb.symm.trans ht) nofun

section
variable (hr : s.running = true) (hw : s.hostWaits = true)
include hr hw

/-- A listed empty poll runs `RX_NONE` (R121). -/
theorem step_emptyPoll {rest : List Answer} (hidle : s.st ≠ .idle) (hlegal : s.st ≠ .reserved)
    (hrx : s.rx = none :: rest) :
    step s = .next (({ s with rx := rest } : State).emptyPoll Config.nodataThreshold Config.nodataMax) := by
  rw [step_of_answer hr hw rfl hlegal hrx, decodePoll_none hidle hlegal]
  rfl

/-- A listed byte that `AwaitStart` ignores is consumed, and nothing else happens (R125). -/
theorem step_ignoredByte {b : Byte} {rest : List Answer} (hst : s.st = .awaitStart) (hsoh : b ≠ 0x01#8)
    (heot : b ≠ 0x04#8) (hrx : s.rx = some b :: rest) : step s = .next { s with rx := rest } := by
  rw [step_of_answer hr hw hst nofun hrx, decodePoll_ignored hsoh heot]
  rfl

/-- After a transition a run of empty polls only counts, saturating (R133). -/
theorem steps_emptyPolls_of_trSeen (k : Nat) {rest : List Answer} (hidle : s.st ≠ .idle) (hlegal : s.st ≠ .reserved)
    (hfits : s.nodata ≤ Config.nodataMax) (htr : s.trSeen = true) (hrx : s.rx = List.replicate k none ++ rest) :
    steps k s = .next { s with rx := rest, nodata := min (s.nodata + k) Config.nodataMax } := by
  induction k generalizing s with
  | zero =>
    have hrx' : s.rx = rest := hrx
    simp only [steps, Nat.add_zero, Nat.min_eq_left hfits, ← hrx']
  | succ k ih =>
    rw [List.replicate_succ] at hrx
    have hstep : step s = .next { s with
        rx := List.replicate k none ++ rest, nodata := min (s.nodata + 1) Config.nodataMax } :=
      (step_emptyPoll hr hw hidle hlegal hrx).trans (congrArg _ (State.emptyPoll_of_trSeen _ _ htr))
    have hrun := ih (s := { s with
        rx := List.replicate k none ++ rest, nodata := min (s.nodata + 1) Config.nodataMax })
      hr hw hidle hlegal (Nat.min_le_right _ _) htr rfl
    have hcount : min (min (s.nodata + 1) Config.nodataMax + k) Config.nodataMax =
        min (s.nodata + (k + 1)) Config.nodataMax := by omega
    rw [steps_of_step hstep, hrun, hcount]

/-- Before a transition a run of empty polls and ignored bytes counts the empty polls, as long as the threshold holds
them (R121, R125, D6). -/
theorem steps_quietPolls (l : List Answer) {rest : List Answer} (hst : s.st = .awaitStart)
    (hignored : ∀ b, some b ∈ l → b ≠ 0x01#8 ∧ b ≠ 0x04#8)
    (hn : s.nodata + l.count none ≤ Config.nodataThreshold) (hrx : s.rx = l ++ rest) :
    steps l.length s = .next { s with rx := rest, nodata := s.nodata + l.count none } := by
  induction l generalizing s with
  | nil =>
    have hrx' : s.rx = rest := hrx
    simp only [List.length_nil, steps, List.count_nil, Nat.add_zero, ← hrx']
  | cons a l ih =>
    have hl : ∀ b, some b ∈ l → b ≠ 0x01#8 ∧ b ≠ 0x04#8 := fun b hb => hignored b (List.mem_cons_of_mem a hb)
    cases a with
    | none =>
      rw [List.count_cons_self] at hn ⊢
      have hstep : step s = .next { s with rx := l ++ rest, nodata := s.nodata + 1 } :=
        (step_emptyPoll hr hw (by simp [hst]) (by simp [hst]) hrx).trans
          (congrArg _ (State.emptyPoll_of_lt (s := { s with rx := l ++ rest }) (by simp only; omega)))
      have hcount : s.nodata + (l.count none + 1) = s.nodata + 1 + l.count none := by omega
      rw [hcount] at hn ⊢
      exact (steps_of_step hstep l.length).trans
        (ih (s := { s with rx := l ++ rest, nodata := s.nodata + 1 }) hr hw hst hl hn rfl)
    | some b =>
      rw [List.count_cons_of_ne (by simp)] at hn ⊢
      obtain ⟨hsoh, heot⟩ := hignored b List.mem_cons_self
      have hstep : step s = .next { s with rx := l ++ rest } := step_ignoredByte hr hw hst hsoh heot hrx
      exact (steps_of_step hstep l.length).trans (ih (s := { s with rx := l ++ rest }) hr hw hst hl hn rfl)

end

end Sys2Proof.Machine
end

section

namespace Sys2Proof.Proofs
open Sys2Proof.Machine

/-- Settles O44: the step is the poll of R120, and its answer's instruction completes by the table. -/
theorem pollStepFollowsTheNextStateTable : Obligations.PollStepFollowsTheNextStateTable := by
  intro s h hr hw
  have hlegal : s.holdsReserved = false := State.holdsReserved_of_ne (h.legal (State.initDone_of_running hr))
  obtain ⟨rx, draws, hp⟩ := s.rxPoll_state
  rw [step_of_hostWaits hlegal hr hw, hp]
  exact exec_decodePoll_next (s := { s with rx := rx, draws := draws }) (h.of_world h.memWf rx s.host draws) hr _

/-- Settles O45: a poll ends the call in one of three ways, whose state and answer the decoder gives back; a command in a
call faults. -/
theorem callEndings : Obligations.CallEndings := by
  intro s t h hr hstep ht
  obtain ⟨-, hpoll | hreset | hcmd | hwrite | hwait⟩ := step_cases hstep
  · obtain ⟨inputs, -, -, hx⟩ := hpoll
    obtain ⟨rx, draws, e⟩ := poll_effect hx
    obtain ⟨hi, herr, rfl⟩ | ⟨hi, rfl⟩ | ⟨hi, htr, hn, rfl⟩ := e.call_ending hr ht
    · have hevent := encode_of_decodePoll hi nofun nofun
      injection hevent with hst hanswer
      exact .inr ⟨rfl, .inl ⟨rfl, hst.symm, hanswer.symm, herr, rfl, rfl, rfl⟩⟩
    · have hevent := encode_of_decodePoll hi nofun nofun
      injection hevent with hst hanswer
      exact .inr ⟨rfl, .inr (.inl ⟨rfl, hst.symm, hanswer.symm, rfl, rfl, rfl⟩)⟩
    · have hst : s.st = .awaitStart := (h.armed hr htr).1
      exact .inr ⟨rfl, .inr (.inr ⟨rfl, htr, answer_none_of_decodePoll hi, hn, hst, hst, rfl, rfl⟩)⟩
  · obtain ⟨inputs, hhost, rfl⟩ := hreset
    exact .inl ⟨rfl, rfl, rfl, rfl, rfl, inputs, hhost⟩
  · obtain ⟨code, buf, inputs, -, hx⟩ := hcmd
    have hfault := exec_command_of_running (s := { s with host := inputs }) (isCommand_decode_cmd code buf) hr
    cases hfault.symm.trans hx
  · obtain ⟨_, _, _, hnot, -⟩ := hwrite
    simp [hr] at hnot
  · obtain ⟨_, hnot, -⟩ := hwait
    simp [hr] at hnot

/-- Settles O46: the invariant excludes `Idle` and 7 and bounds the count. -/
theorem silenceAfterATransitionNeverEndsTheCall : Obligations.SilenceAfterATransitionNeverEndsTheCall := by
  intro k s rest h hr hw htr hrx
  exact steps_emptyPolls_of_trSeen hr hw k (h.inCall hr) (h.legal (State.initDone_of_running hr)) h.counterFits htr hrx

/-- Settles O47: the run up to the threshold counts, and one more empty poll passes it. -/
theorem noDataTimeoutCountsEmptyPolls : Obligations.NoDataTimeoutCountsEmptyPolls := by
  intro l rest s hr hw hst htr hignored hn
  refine ⟨steps_quietPolls hr hw l hst hignored hn, fun hrx hfull => ?_⟩
  have hrun := steps_quietPolls hr hw l hst hignored hn hrx
  rw [steps_of_steps hrun 1, hfull]
  have hlast := step_emptyPoll (s := { s with rx := none :: rest, nodata := Config.nodataThreshold }) hr hw
    (by simp [hst]) (by simp [hst]) rfl
  exact (steps_of_step hlast 0).trans (congrArg _ (State.emptyPoll_of_eq rfl htr))

/-- Settles O49: the 128 bytes are stored whatever the header left in `err`, and the checksum byte meets a wrong sum or a
set flag. -/
theorem badFrameIsRejected : Obligations.BadFrameIsRejected := by
  intro s base seq comp cks d rest hr hw hst hbound hd hbad hrx
  have hframe := steps_frame_before_checksum hr hw hst hbound hd hrx
  have hrejects : (s.afterPayload base (s.headerError seq comp) d rest).accepts cks = false := by
    rw [← Bool.not_eq_true, State.accepts_iff]
    rintro ⟨hsum, herr⟩
    have hchecks : seq = s.eseq ∧ comp = 0xFF#8 - s.eseq := by
      simpa [State.afterPayload, State.headerError, State.seqOK_iff, State.compOK_iff] using herr
    exact hbad ⟨hchecks.1, hchecks.2, hsum⟩
  have hlast := (step_checksumByte hr hw hd).trans (execRxCks_of_rejects hrejects)
  have hrun := (steps_of_steps hframe 1).trans (steps_of_step hlast 0)
  have hblock := Memory.readBlock_writeBlock base d s.mem
  rw [hd] at hblock
  refine ⟨_, hrun, rfl, State.busy_of_running hr, rfl, rfl, rfl, rfl, rfl, rfl, hbound, hblock, fun addr haddr => ?_⟩
  exact Memory.read_writeBlock_outside d s.mem (by rwa [hd])

/-- Settles O22: the two outcomes of the empty poll; the one that ends the call releases the buffer (R106, R55). -/
theorem emptyPollCountsAndMayEndTheCall : Obligations.EmptyPollCountsAndMayEndTheCall := by
  intro s n
  obtain ⟨htr, hn, e⟩ | ⟨hnot, e⟩ := s.emptyPoll_cases Config.nodataThreshold Config.nodataMax
  · exact congrArg Host.Outcome.next (e.trans (if_pos ⟨htr, hn⟩).symm)
  · exact congrArg Host.Outcome.next (e.trans (if_neg hnot).symm)

/-- Settles O23: the decode and the rule's effect. -/
theorem sohStartsAFrame : Obligations.SohStartsAFrame :=
  ⟨rfl, fun _ => rfl⟩

/-- Settles O24: with `EOT_NEXT_STATE` of C2 (log entry 8) the next state is the old one, so `tr_seen` stays; the end of
the call releases the buffer (R106, R55). -/
theorem eotEndsTheTransfer : Obligations.EotEndsTheTransfer := by
  refine ⟨rfl, fun s hst => ?_⟩
  have hmove : (s.transmit ackByte).moveTo eotNextState = s.transmit ackByte := State.moveTo_self hst
  change Host.Outcome.next (((s.transmit ackByte).moveTo eotNextState).complete .finished) = _
  rw [hmove]
  rfl

/-- Settles O25: after the transfer RECV is accepted, and the state left decides its effect (R103). -/
theorem stateAfterEotDecidesTheNextRecv : Obligations.StateAfterEotDecidesTheNextRecv := by
  intro s after buf hi hafter
  have hrecv : execRecv buf (s.finishTransfer after) = _ := State.accept_of_ready hi rfl
  refine ⟨rfl, rfl, rfl, _, hrecv, ?_⟩
  obtain rfl | rfl := hafter
  · exact ⟨fun _ => ⟨rfl, rfl⟩, nofun⟩
  · exact ⟨nofun, fun _ => ⟨rfl, rfl⟩⟩

/-- Settles O26: the decode, the empty effect, and the step that consumes the byte. -/
theorem ignoredByteChangesNothing : Obligations.IgnoredByteChangesNothing := by
  intro s b rest hsoh heot
  exact ⟨decodePoll_ignored hsoh heot, rfl, fun hr hw hst hrx => step_ignoredByte hr hw hst hsoh heot hrx⟩

/-- Settles O27: the check of R152, then a transition. -/
theorem sequenceByteIsChecked : Obligations.SequenceByteIsChecked := by
  intro s b hst
  refine ⟨by rw [hst]; rfl, ?_⟩
  change execRxSeq b s = _
  rw [execRxSeq, State.moveTo_of_ne (by simp [hst]), State.noteCheck_of_iff State.seqOK_iff]

/-- Settles O28: the check of R153 as a number, then a transition. -/
theorem complementByteIsChecked : Obligations.ComplementByteIsChecked := by
  intro s b hst
  refine ⟨by rw [hst]; rfl, ?_⟩
  change execRxComp b s = _
  rw [execRxComp, State.moveTo_of_ne (by simp [hst]), State.noteCheck_of_iff State.compOK_iff_toNat]

/-- Settles O30: the write to the bound buffer, then a transition. -/
theorem firstPayloadByteIsStored : Obligations.FirstPayloadByteIsStored := by
  intro s b base hst hbound
  refine ⟨by rw [hst]; rfl, ?_⟩
  change execRxD0 b s = _
  rw [execRxD0_of_bound b hbound, State.moveTo_of_ne (by simp [hst])]
  rfl

/-- Settles O31: the write at the old `len`, and the transition where the length meets 128. -/
theorem laterPayloadBytesAreStored : Obligations.LaterPayloadBytesAreStored := by
  intro s b base hst hbound hlen
  refine ⟨by rw [hst]; rfl, ?_⟩
  have hindex : s.payloadIndex < 128 := Nat.lt_succ_of_le hlen
  change execRxData b s = _
  rw [execRxData_of_bound b hindex hbound]
  by_cases hlast : s.len.toNat = 127
  · have hfull : s.len + 0x01#8 = 128#8 := len_add_one_eq_128.2 (by omega)
    rw [if_pos hlast]
    simp only [hfull, if_true, State.payloadIndex, hlast]
    rw [State.moveTo_of_ne (by simp [hst])]
    rfl
  · have hmore : s.len + 0x01#8 ≠ 128#8 := mt len_add_one_eq_128.1 (by omega)
    rw [if_neg hlast]
    simp only [hmore, if_false]
    rfl

/-- Settles O34: the checks pass, the step leaves `AwaitChecksum`, and the end of the call releases the buffer (R106,
R55). -/
theorem matchingChecksumAcceptsThePacket : Obligations.MatchingChecksumAcceptsThePacket := by
  intro s b hst hsum herr
  refine ⟨by rw [hst]; rfl, ?_⟩
  change execRxCks b s = _
  rw [execRxCks_of_accepts (State.accepts_iff.2 ⟨hsum, herr⟩), State.moveTo_of_ne (by simp [hst])]
  rfl

/-- Settles O35: either error fails the checks, and the step leaves `AwaitChecksum`. -/
theorem anyErrorRejectsThePacket : Obligations.AnyErrorRejectsThePacket := by
  intro s b hst hbad
  refine ⟨by rw [hst]; rfl, ?_⟩
  change execRxCks b s = _
  rw [execRxCks_of_rejects (State.accepts_eq_false_iff.2 hbad), State.moveTo_of_ne (by simp [hst])]
  rfl

/-- Settles O36: in `Idle` the poll selects `RX_ILLEGAL` for either answer. -/
theorem pollInIdleFaults : Obligations.PollInIdleFaults := by
  refine ⟨fun _ _ => rfl, fun s hr hw hst => ?_⟩
  have hlegal : s.holdsReserved = false := State.holdsReserved_of_ne (by simp [hst])
  rw [step_of_hostWaits hlegal hr hw, hst]
  rfl

end Sys2Proof.Proofs
end

section
/-! The validator's checks (42_validator.md): the header's flag (R157), and the running sum of a packet (R150, R151),
where it is established and that each instruction keeps it. -/

namespace Sys2Proof.Machine

variable {s t : State}

/-- The header leaves `err` clear exactly for `eseq` and its complement (R157). -/
theorem State.headerError_eq_false_iff {seq comp : Byte} :
    s.headerError seq comp = false ↔ seq = s.eseq ∧ comp = 0xFF#8 - s.eseq := by
  rw [State.headerError, Bool.or_eq_false_iff, Bool.not_eq_false', Bool.not_eq_false', State.seqOK_iff,
    State.compOK_iff]

/-- Adding bytes with wrapping at each addition gives their sum modulo 256 (R151). -/
theorem checksumOf_toNat (d : List Byte) : (checksumOf d).toNat = (d.map BitVec.toNat).sum % 256 := by
  induction d using List.reverseRecOn with
  | nil => rfl
  | append_singleton d b ih =>
    have hwrap : (addChecksum (checksumOf d) b).toNat = ((checksumOf d).toNat + b.toNat) % 256 :=
      BitVec.toNat_add _ _
    rw [checksumOf_append, hwrap, ih, Nat.mod_add_mod, List.map_append, List.sum_append, List.map_singleton,
      List.sum_singleton]

/-- What R151 says of a call that takes payload: the bound buffer's first `len` bytes are written and `csum` is their
sum. -/
def State.SumsBuffer (s : State) : Prop :=
  ∃ base d, s.bound = some base ∧ Memory.readBlock base s.mem s.len.toNat = some d ∧ s.csum = checksumOf d

/-- The running-sum invariant gives the sum while payload is being taken. -/
theorem State.PayloadInv.sumsBuffer (h : s.PayloadInv) (hi : s.initDone = true) (hst : s.st = .accumulatingData) :
    s.SumsBuffer :=
  h hi (.inl hst)

/-- Outside the two payload states nothing is asked. -/
theorem State.PayloadInv.of_ne (hdata : s.st ≠ .accumulatingData) (hcks : s.st ≠ .awaitChecksum) : s.PayloadInv :=
  fun _ hst => absurd hst (not_or.2 ⟨hdata, hcks⟩)

/-- Between calls nothing is asked: `st` is `Idle` or `AwaitStart` (R37). -/
theorem State.PayloadInv.of_not_running (h : s.Inv) (hr : s.running = false) : s.PayloadInv := by
  intro hi hst
  have hb : s.busy = false := by simpa [State.running, hi] using hr
  obtain hidle | hwait := h.between hi hb
  · simp [hidle] at hst
  · simp [hwait] at hst

/-- One byte stored at index 0 is its own sum (R128). -/
theorem State.sumsBuffer_first {base : Nat} (hbound : s.bound = some base) (b : Byte) :
    State.SumsBuffer { s with mem := Memory.write base b s.mem, csum := b, len := 0x01#8 } :=
  ⟨base, [b], hbound, Memory.readBlock_write_next (n := 0) rfl, (BitVec.zero_add b).symm⟩

/-- The byte stored at the old `len` extends the summed bytes (R129). -/
theorem State.SumsBuffer.next {base : Nat} (h : s.SumsBuffer) (hbound : s.bound = some base)
    (hlen : s.len.toNat < 128) (b : Byte) :
    State.SumsBuffer { s with
      mem := Memory.write (base + s.len.toNat) b s.mem, csum := addChecksum s.csum b, len := s.len + 0x01#8 } := by
  obtain ⟨base', d, hbound', hblock, hsum⟩ := h
  cases hbound'.symm.trans hbound
  have hnext : (s.len + 0x01#8).toNat = s.len.toNat + 1 := by bv_omega
  refine ⟨base, d ++ [b], hbound, ?_, ?_⟩
  · simp only [hnext]
    exact Memory.readBlock_write_next hblock
  · simp only [hsum, checksumOf_append]

/-- Every instruction keeps the running-sum invariant where it leaves a state that meets `Inv`; `RX_DATA` extends a sum,
so it needs its own state. -/
theorem ExecEffect.keeps_payloadInv {i : Instr} (e : ExecEffect s i t) (h : s.Inv) (ht : t.Inv)
    (hpayload : s.PayloadInv) (hdata : ∀ b, i = .rxData b → s.st = .accumulatingData) : t.PayloadInv := by
  cases e with
  | init | noneEnds | eot | cksAccept => exact .of_not_running ht (State.not_running_of_not_busy rfl)
  | recvIdle _ hb => exact .of_not_running ht (State.not_running_of_not_busy hb)
  | start | ack | soh | seq | comp | cksReject => exact .of_ne nofun nofun
  | recvCall hi hb hst =>
    have hwait : s.st = .awaitStart := (h.between hi hb).resolve_left hst
    exact .of_ne (by simp [hwait]) (by simp [hwait])
  | noneCounts | ignore => exact hpayload
  | d0 hbound => exact fun _ _ => State.sumsBuffer_first hbound _
  | dataLast hbound hlast =>
    have hlen := len_add_one_eq_128.1 hlast
    exact fun hi _ => (hpayload.sumsBuffer hi (hdata _ rfl)).next hbound (by omega) _
  | dataNext hbound hlen => exact fun hi _ => (hpayload.sumsBuffer hi (hdata _ rfl)).next hbound hlen _

end Sys2Proof.Machine
end

section
/-! The packets a run delivers (42_validator.md R156): the input a step takes, and what it adds to the count and to
`eseq`. -/

namespace Sys2Proof.Machine

variable {s t : State} {i : Instr}

/-- A run of one more step begins with a step that completes. -/
theorem steps_succ_next {k : Nat} (h : steps (k + 1) s = .next t) : ∃ u, step s = .next u ∧ steps k u = .next t := by
  cases hstep : step s with
  | next u => exact ⟨u, rfl, (steps_of_step hstep k).symm.trans h⟩
  | fault r => simp [steps, hstep] at h
  | refused r => simp [steps, hstep] at h

/-- A step takes at most one input, the first of the host's list (R58, log entry 1). -/
theorem host_suffix_of_step (h : step s = .next t) : t.host <:+ s.host := by
  obtain ⟨-, hpoll | hreset | hcmd | hwrite | hwait⟩ := step_cases h
  · obtain ⟨inputs, -, hhost, hx⟩ := hpoll
    obtain ⟨_, _, e⟩ := poll_effect hx
    rw [e.inputs_kept.2.1]
    obtain ⟨-, rfl⟩ | hpass := hhost
    · exact List.suffix_rfl
    · exact hpass ▸ List.suffix_cons _ _
  · obtain ⟨inputs, hhost, rfl⟩ := hreset
    exact hhost ▸ List.suffix_cons _ _
  · obtain ⟨code, buf, inputs, hhost | ⟨-, hhost⟩, hx⟩ := hcmd
    all_goals
      rw [(exec_effect hx).inputs_kept.2.1, hhost]
      exact List.suffix_cons _ _
  · obtain ⟨addr, v, inputs, -, hhost, rfl⟩ := hwrite
    exact hhost ▸ List.suffix_cons _ _
  · obtain ⟨inputs, -, hhost | ⟨-, rfl⟩, rfl⟩ := hwait
    · exact hhost ▸ List.suffix_cons _ _
    · exact List.nil_suffix

/-- No instruction clears `init_done` (R34). -/
theorem ExecEffect.initDone_stays (e : ExecEffect s i t) (hi : s.initDone = true) : t.initDone = true := by
  cases e with
  | init => rfl
  | _ => exact hi

/-- No step clears `init_done` (R34). -/
theorem initDone_of_step (hi : s.initDone = true) (h : step s = .next t) : t.initDone = true := by
  obtain ⟨-, ⟨_, -, -, hx⟩ | ⟨_, -, rfl⟩ | ⟨_, _, _, -, hx⟩ | ⟨_, _, _, -, -, rfl⟩ | ⟨_, -, -, rfl⟩⟩ := step_cases h
  case inl =>
    obtain ⟨_, _, e⟩ := poll_effect hx
    exact e.initDone_stays hi
  case inr.inl => rfl
  case inr.inr.inl => exact (exec_effect hx).initDone_stays hi
  all_goals exact hi

/-- How many packets a step from `s` to `t` delivers: one where it ends a call with `Packet`. -/
def deliveredBy (s t : State) : Nat := if s.running && !t.busy && decide (t.res = some .packet) then 1 else 0

/-- The packets of one step and then `k`. -/
theorem acceptedPackets_of_step (h : step s = .next t) (k : Nat) :
    acceptedPackets (k + 1) s = deliveredBy s t + acceptedPackets k t := by
  simp only [acceptedPackets, h, deliveredBy]

/-- Without a call nothing is delivered. -/
theorem deliveredBy_of_not_running (hr : s.running = false) : deliveredBy s t = 0 := by
  simp [deliveredBy, hr]

/-- While the call goes on nothing is delivered. -/
theorem deliveredBy_of_busy (hb : t.busy = true) : deliveredBy s t = 0 := by
  simp [deliveredBy, hb]

/-- Another result delivers nothing. -/
theorem deliveredBy_of_res_ne (hres : t.res ≠ some .packet) : deliveredBy s t = 0 := by
  simp [deliveredBy, hres]

/-- The step from `s` to `t` advances `eseq` by the packets it delivers (R156). -/
def CountsPackets (s t : State) : Prop := t.eseq.toNat = (s.eseq.toNat + deliveredBy s t) % 256

/-- A step that keeps `eseq` and delivers nothing counts rightly. -/
theorem CountsPackets.of_kept (heseq : t.eseq = s.eseq) (hnone : deliveredBy s t = 0) : CountsPackets s t := by
  rw [CountsPackets, heseq, hnone]
  exact (Nat.mod_eq_of_lt s.eseq.isLt).symm

/-- In a call only the accepting checksum step advances `eseq`, and only it delivers a packet (R156). -/
theorem ExecEffect.countsPackets (e : ExecEffect s i t) (hr : s.running = true) : CountsPackets s t := by
  have hb : s.busy = true := State.busy_of_running hr
  cases e with
  | init hnot => simp [hr] at hnot
  | start _ hnb | ack _ hnb | recvIdle _ hnb | recvCall _ hnb => simp [hb] at hnb
  | noneEnds | eot => exact .of_kept rfl (deliveredBy_of_res_ne nofun)
  | noneCounts | soh | ignore | seq | comp | d0 | dataLast | dataNext | cksReject =>
    exact .of_kept rfl (deliveredBy_of_busy hb)
  | cksAccept => simp [CountsPackets, deliveredBy, hr, BitVec.toNat_add]

/-- A command that does not initialise keeps `eseq` (R24, R156). -/
theorem ExecEffect.command_eseq (e : ExecEffect s i t) (hc : Laws.isCommand i = true) (hinit : i ≠ .init) :
    t.eseq = s.eseq := by
  obtain hkept | ⟨rfl, -⟩ | ⟨rfl, -⟩ := e.eseq_cases
  · exact hkept
  · exact absurd rfl hinit
  · cases hc

/-- A command that completes finds no call in progress (R104). -/
theorem not_running_of_command (hc : Laws.isCommand i = true) (h : exec i s = .next t) : s.running = false := by
  rw [← Bool.not_eq_true]
  intro hr
  cases (exec_command_of_running hc hr).symm.trans h

/-- Only the code of INIT selects INIT (R71). -/
theorem decode_cmd_ne_init {code : BitVec 2} (hcode : (!(code == 0b00#2)) = true) (buf : Nat) :
    decode (.cmd code buf) ≠ .init := by
  obtain rfl | rfl | rfl | rfl := cmdCode_cases code
  · cases hcode
  all_goals nofun

/-- A step whose input is neither INIT nor the reset input advances `eseq` by the packets it delivers (R156). -/
theorem step_countsPackets (hkeep : s.host.all HostInput.keepsSequence = true) (h : step s = .next t) :
    CountsPackets s t := by
  obtain ⟨-, hpoll | hreset | hcmd | hwrite | hwait⟩ := step_cases h
  · obtain ⟨inputs, hr, -, hx⟩ := hpoll
    obtain ⟨rx, draws, e⟩ := poll_effect hx
    exact e.countsPackets hr
  · obtain ⟨inputs, hhost, -⟩ := hreset
    simp [hhost, HostInput.keepsSequence] at hkeep
  · obtain ⟨code, buf, inputs, hhost, hx⟩ := hcmd
    have hcommand := isCommand_decode_cmd code buf
    have hcode : (!(code == 0b00#2)) = true := by
      obtain hhost | ⟨-, hhost⟩ := hhost
      all_goals
        rw [hhost, List.all_cons, Bool.and_eq_true] at hkeep
        exact hkeep.1
    exact .of_kept ((exec_effect hx).command_eseq hcommand (decode_cmd_ne_init hcode buf))
      (deliveredBy_of_not_running (not_running_of_command (s := { s with host := inputs }) hcommand hx))
  · obtain ⟨addr, v, inputs, hr, -, rfl⟩ := hwrite
    exact .of_kept rfl (deliveredBy_of_not_running hr)
  · obtain ⟨inputs, hr, -, rfl⟩ := hwait
    exact .of_kept rfl (deliveredBy_of_not_running hr)

end Sys2Proof.Machine
end

section

namespace Sys2Proof.Proofs
open Sys2Proof.Machine

/-- Settles O54: an instruction establishes or extends the sum, `RX_DATA` in the state the decoder gives back; without an
instruction no call is in progress in the next state. -/
theorem stepKeepsTheRunningSum : Obligations.StepKeepsTheRunningSum := by
  intro s t h hpayload hstep
  have ht : t.Inv := stepKeepsTheInvariant s t h hstep
  obtain ⟨-, hpoll | hreset | hcmd | hwrite | hwait⟩ := step_cases hstep
  · obtain ⟨inputs, -, -, hx⟩ := hpoll
    obtain ⟨rx, draws, e⟩ := poll_effect hx
    refine e.keeps_payloadInv (h.of_world h.memWf rx inputs draws) ht hpayload fun b hi => ?_
    have hevent := encode_of_decodePoll hi nofun nofun
    injection hevent with hst
    exact hst.symm
  · obtain ⟨inputs, -, rfl⟩ := hreset
    exact .of_not_running ht rfl
  · obtain ⟨code, buf, inputs, -, hx⟩ := hcmd
    refine (exec_effect hx).keeps_payloadInv (h.of_world h.memWf s.rx inputs s.draws) ht hpayload fun b hi => ?_
    have hcommand := isCommand_decode_cmd code buf
    rw [hi] at hcommand
    cases hcommand
  · obtain ⟨addr, v, inputs, hr, -, rfl⟩ := hwrite
    exact .of_not_running ht hr
  · obtain ⟨inputs, hr, -, rfl⟩ := hwait
    exact .of_not_running ht hr

/-- Settles O50: by induction from the last byte, as the sum is taken. -/
theorem checksumIsTheSumModulo256 : Obligations.ChecksumIsTheSumModulo256 :=
  checksumOf_toNat

/-- Settles O51: by induction on the steps; each leaves the block initialised and a tail of the host's inputs. -/
theorem sequenceCountsDeliveredPackets : Obligations.SequenceCountsDeliveredPackets := by
  intro k
  induction k with
  | zero =>
    intro s t _ _ hrun
    cases hrun
    exact (Nat.mod_eq_of_lt s.eseq.isLt).symm
  | succ k ih =>
    intro s t hi hkeep hrun
    obtain ⟨u, hstep, hrest⟩ := steps_succ_next hrun
    have hkeep' : u.host.all HostInput.keepsSequence = true :=
      List.all_eq_true.2 fun x hx => List.all_eq_true.1 hkeep x ((host_suffix_of_step hstep).subset hx)
    have hcount : u.eseq.toNat = (s.eseq.toNat + deliveredBy s u) % 256 := step_countsPackets hkeep hstep
    rw [ih u t (initDone_of_step hi hstep) hkeep' hrest, acceptedPackets_of_step hstep, hcount, Nat.mod_add_mod,
      Nat.add_assoc]

/-- Settles O29: the two steps leave in `err` what the two checks find; neither writes `eseq`. -/
theorem headerErrorExactlyOnMismatch : Obligations.HeaderErrorExactlyOnMismatch := by
  intro s seq comp herr
  refine ⟨_, _, rfl, rfl, rfl, ?_⟩
  change ((s.err || !s.seqOK seq) || !s.compOK comp) = false ↔ _
  rw [herr, Bool.false_or]
  exact State.headerError_eq_false_iff

end Sys2Proof.Proofs
end

section

namespace Sys2Proof.Proofs
open Sys2Proof.Machine

/-- Settles O18: RECV is accepted, and in `Idle` its effect is the result `StateError` alone; that result replaces the
cleared one of R106, so no other field differs. -/
theorem recvInIdleGivesStateError : Obligations.RecvInIdleGivesStateError := by
  intro s buf hi hb hst
  calc execRecv buf s
      _ = .next (if s.st = .idle then { s with res := some .stateError }
            else ({ s with res := none } : State).beginCall buf) := State.accept_of_ready hi hb
      _ = .next { s with res := some .stateError } := by rw [if_pos hst]

end Sys2Proof.Proofs
end

section
/-! The steps a reset or an idle host gives (70_reset_and_hazards.md R190, R191, R201): the reset input in any state, and
the inputs that are neither a command nor a reset with no call in progress. -/

namespace Sys2Proof.Machine

variable {s t : State} {i : Instr}

/-- R190: the reset input initialises, in a call too, unless 7 is held (R77). -/
theorem step_of_rst {inputs : List HostInput} (hs : s.holdsReserved = false) (hh : s.host = .rst :: inputs) :
    step s = .next ({ s with host := inputs } : State).initialise := by
  simp [step, hs, State.fetch, hh]

/-- R184: with no call in progress and no input the step changes nothing (log entry 12). -/
theorem step_of_noInput (hs : s.holdsReserved = false) (hr : s.running = false) (hh : s.host = []) :
    step s = .next s := by
  simp [step, hs, State.fetch, State.fetchQuiet, hh, hr]

/-- R59: with no call in progress an input that is neither a command nor the reset input is taken, and its write, if it
is one, lands. -/
theorem step_of_quietInput {x : HostInput} {inputs : List HostInput} (hs : s.holdsReserved = false)
    (hr : s.running = false) (hh : s.host = x :: inputs) (hx : x.quiet = true) :
    step s = .next { s with host := inputs, mem := HostInput.store s.mem x } := by
  cases x with
  | cmd | cmdNoWait | rst => cases hx
  | pass =>
    have hr' : ({ s with host := inputs } : State).running = false := hr
    simp [step, hs, State.fetch, State.fetchQuiet, hh, hr', HostInput.store]
  | write addr v => simp [step, hs, State.fetch, hh, hr, State.hostWrite, HostInput.store]

/-- A run is over with `busy` clear and neither a command nor a reset to come (R201, log entry 22). -/
theorem State.runOver_iff : s.runOver = true ↔ s.busy = false ∧ ∀ x ∈ s.host, x.quiet = true := by
  simp [State.runOver]

/-- R201: the steps of a run that is over take the host's inputs and land its writes. -/
theorem steps_of_runOver (k : Nat) (hs : s.holdsReserved = false) (hover : s.runOver = true) :
    steps k s = .next { s with host := s.host.drop k, mem := (s.host.take k).foldl HostInput.store s.mem } := by
  induction k generalizing s with
  | zero => rfl
  | succ k ih =>
    obtain ⟨hb, hquiet⟩ := State.runOver_iff.1 hover
    have hr : s.running = false := State.not_running_of_not_busy hb
    cases hh : s.host with
    | nil =>
      rw [steps_of_step (step_of_noInput hs hr hh), ih hs hover, hh]
      simp
    | cons x inputs =>
      rw [hh] at hquiet
      have hstep := step_of_quietInput hs hr hh (hquiet x List.mem_cons_self)
      have hover' : State.runOver { s with host := inputs, mem := HostInput.store s.mem x } = true :=
        State.runOver_iff.2 ⟨hb, fun y hy => hquiet y (List.mem_cons_of_mem x hy)⟩
      exact (steps_of_step hstep k).trans (ih hs hover')

/-- No instruction brings about a held 7 (R23). -/
theorem ExecEffect.keeps_legal (e : ExecEffect s i t) (hs : s.holdsReserved = false) : t.holdsReserved = false := by
  cases e with
  | recvIdle | recvCall | noneEnds | noneCounts | ignore | dataNext => exact hs
  | _ => exact State.holdsReserved_of_ne nofun

/-- A step that completes does not leave a held 7 (R23, R77). -/
theorem legal_of_step (h : step s = .next t) : t.holdsReserved = false := by
  obtain ⟨hs, ⟨_, -, -, hx⟩ | ⟨_, -, rfl⟩ | ⟨_, _, _, -, hx⟩ | ⟨_, _, _, -, -, rfl⟩ | ⟨_, -, -, rfl⟩⟩ := step_cases h
  case inl =>
    obtain ⟨_, _, e⟩ := poll_effect hx
    exact e.keeps_legal hs
  case inr.inl => exact State.holdsReserved_of_ne nofun
  case inr.inr.inl => exact (exec_effect hx).keeps_legal hs
  all_goals exact hs

/-- A run that completes does not end with a held 7. -/
theorem legal_of_steps {k : Nat} (hs : s.holdsReserved = false) (h : steps k s = .next t) :
    t.holdsReserved = false := by
  induction k generalizing s with
  | zero => cases h; exact hs
  | succ k ih =>
    obtain ⟨u, hstep, hrest⟩ := steps_succ_next h
    exact ih (legal_of_step hstep) hrest

end Sys2Proof.Machine
end

section

namespace Sys2Proof.Proofs
open Sys2Proof.Machine

/-- Settles O13: by induction on the steps, each takes one input. -/
theorem overRunStaysAsItIs : Obligations.OverRunStaysAsItIs :=
  fun k _ hs hover => steps_of_runOver k hs hover

/-- Settles O14: no poll is taken and every command but INIT is refused (R105). -/
theorem powerOnStateOnlyInitialises : Obligations.PowerOnStateOnlyInitialises := by
  intro s t hi hstep
  obtain ⟨-, hpoll | hreset | hcmd | hwrite | hwait⟩ := step_cases hstep
  · obtain ⟨_, hr, -⟩ := hpoll
    cases (State.initDone_of_running hr).symm.trans hi
  · obtain ⟨inputs, -, rfl⟩ := hreset
    exact .inl ⟨rfl, rfl, rfl, rfl, rfl, rfl, rfl, rfl, rfl⟩
  · obtain ⟨code, buf, inputs, -, hx⟩ := hcmd
    have hready : ({ s with host := inputs } : State).running = false := State.not_running_of_not_initDone hi
    by_cases hinit : decode (.cmd code buf) = .init
    · rw [hinit, exec_init_of_not_running hready] at hx
      cases hx
      exact .inl ⟨rfl, rfl, rfl, rfl, rfl, rfl, rfl, rfl, rfl⟩
    · have hrefused := exec_command_of_not_initDone (s := { s with host := inputs }) (isCommand_decode_cmd code buf)
        hinit hi
      cases hrefused.symm.trans hx
  · obtain ⟨addr, v, inputs, -, hhost, rfl⟩ := hwrite
    exact .inr ⟨rfl, .inr ⟨addr, v, inputs, hhost, rfl⟩⟩
  · obtain ⟨inputs, -, -, rfl⟩ := hwait
    exact .inr ⟨rfl, .inl rfl⟩

/-- Settles O10: the step takes the reset input, in a call too. -/
theorem resetInputInitialises : Obligations.ResetInputInitialises :=
  fun _ _ hs hhost => step_of_rst hs hhost

end Sys2Proof.Proofs
end

section
/-! The calls a run records (70_reset_and_hazards.md R201, log entry 21): which step records one, and with what. -/

namespace Sys2Proof.Machine

variable {s t : State} {c : CallRecord}

/-- A step that takes a `RECV` runs it (R103). -/
theorem exec_recv_of_recvTaken {buf : Nat} (h : s.recvTaken = some buf) (hstep : step s = .next t) :
    ∃ inputs, exec (.recv buf) { s with host := inputs } = .next t := by
  obtain ⟨hs, -⟩ := step_cases hstep
  obtain ⟨inputs, hh | ⟨hr, hh⟩⟩ := State.recvTaken_some h
  · exact ⟨inputs, (step_of_fetch_event hs (State.fetch_of_cmdNoWait hh)).symm.trans hstep⟩
  · exact ⟨inputs, (step_of_fetch_event hs (State.fetch_of_cmd hr hh)).symm.trans hstep⟩

/-- A step of a call that completes takes no `RECV`, which would fault (R104). -/
theorem State.recvTaken_none_of_step (hr : s.running = true) (hstep : step s = .next t) : s.recvTaken = none := by
  cases hrecv : s.recvTaken with
  | none => rfl
  | some buf =>
    obtain ⟨inputs, hx⟩ := exec_recv_of_recvTaken hrecv hstep
    cases (exec_command_of_running (s := { s with host := inputs }) rfl hr).symm.trans hx

/-- With no call in progress and no `RECV` taken no call is over. -/
theorem callEnded_of_noRecv (hr : s.running = false) (hrecv : s.recvTaken = none) : callEnded s t = none := by
  simp [callEnded, hr, hrecv]

/-- A step that leaves no call in progress records the call on `base` that was. -/
theorem callEnded_of_step {base : Nat} (hr : s.running = true) (hbound : s.bound = some base)
    (hstep : step s = .next t) (ht : t.busy = false) : callEnded s t = some (t.callRecord base) := by
  simp [callEnded, ht, State.recvTaken_none_of_step hr hstep, hr, hbound]

/-- A recorded call is the one in progress, which the step has ended, or a `RECV` that failed at once (R172). -/
theorem callEnded_cases (hstep : step s = .next t) (h : callEnded s t = some c) :
    (s.running = true ∧ t.busy = false ∧ s.bound = some c.buf ∧ c = t.callRecord c.buf) ∨
    (s.running = false ∧ c.result = some .stateError) := by
  have ht : t.busy = false := by
    rw [← Bool.not_eq_true]
    intro hb
    cases (callEnded_of_busy hb).symm.trans h
  cases hr : s.running with
  | true =>
    cases hbound : s.bound with
    | none => simp [callEnded, ht, State.recvTaken_none_of_step hr hstep, hr, hbound] at h
    | some base =>
      cases (callEnded_of_step hr hbound hstep ht).symm.trans h
      exact .inl ⟨rfl, ht, rfl, rfl⟩
  | false =>
    cases hrecv : s.recvTaken with
    | none => cases (callEnded_of_noRecv hr hrecv).symm.trans h
    | some buf =>
      have hc : c = t.callRecord buf := by simpa [callEnded, ht, hrecv] using h.symm
      obtain ⟨_, hx⟩ := exec_recv_of_recvTaken hrecv hstep
      cases exec_effect hx with
      | recvIdle => exact .inr ⟨rfl, congrArg CallRecord.result hc⟩
      | recvCall => cases ht

/-- A step records a `Packet` exactly where it delivers one (R156). -/
theorem count_packet_of_callEnded (h : s.Inv) (hstep : step s = .next t) :
    ((callEnded s t).toList.filterMap CallRecord.result).count .packet = deliveredBy s t := by
  cases hr : s.running with
  | false =>
    rw [deliveredBy_of_not_running hr]
    cases hc : callEnded s t with
    | none => rfl
    | some c =>
      obtain ⟨hrun, -⟩ | ⟨-, hres⟩ := callEnded_cases hstep hc
      · cases hr.symm.trans hrun
      · simp [hres]
  | true =>
    cases ht : t.busy with
    | true => rw [callEnded_of_busy ht, deliveredBy_of_busy ht]; rfl
    | false =>
      obtain ⟨base, hbound⟩ := h.bound_some hr
      rw [callEnded_of_step hr hbound hstep ht]
      cases hres : t.res with
      | none => simp [State.callRecord, deliveredBy, hres]
      | some code => simp [State.callRecord, deliveredBy, hr, ht, hres, List.count_singleton]

/-- A step that takes no input begins no call (R103). -/
theorem busy_false_of_step (hb : s.busy = false) (hhost : t.host = s.host) (hstep : step s = .next t) :
    t.busy = false := by
  obtain ⟨-, hpoll | hreset | hcmd | hwrite | hwait⟩ := step_cases hstep
  · obtain ⟨_, hr, -⟩ := hpoll
    cases hb.symm.trans (State.busy_of_running hr)
  · obtain ⟨inputs, -, rfl⟩ := hreset
    rfl
  · obtain ⟨code, buf, inputs, hh, hx⟩ := hcmd
    obtain ⟨-, htaken, -⟩ := (exec_effect hx).inputs_kept
    obtain hh | ⟨-, hh⟩ := hh
    all_goals
      rw [htaken, hh] at hhost
      exact absurd hhost.symm (List.cons_ne_self _ _)
  · obtain ⟨addr, v, inputs, -, -, rfl⟩ := hwrite
    exact hb
  · obtain ⟨inputs, -, -, rfl⟩ := hwait
    exact hb

/-- A run takes its inputs from the front of the host's list (log entry 1). -/
theorem host_suffix_of_steps {k : Nat} (h : steps k s = .next t) : t.host <:+ s.host := by
  induction k generalizing s with
  | zero => cases h; exact List.suffix_rfl
  | succ k ih =>
    obtain ⟨u, hstep, hrest⟩ := steps_succ_next h
    exact (ih hrest).trans (host_suffix_of_step hstep)

/-- Where a run takes no input, neither its first step nor the rest takes one. -/
theorem host_kept_of_run {k : Nat} {u : State} (hstep : step s = .next u) (hrest : steps k u = .next t)
    (hhost : t.host = s.host) : u.host = s.host ∧ t.host = u.host := by
  have hfirst : u.host = s.host :=
    (host_suffix_of_step hstep).eq_of_length_le (hhost ▸ (host_suffix_of_steps hrest).length_le)
  exact ⟨hfirst, hhost.trans hfirst.symm⟩

/-- A run that takes no input begins no call (R103). -/
theorem busy_false_of_steps {k : Nat} (hb : s.busy = false) (hhost : t.host = s.host) (h : steps k s = .next t) :
    t.busy = false := by
  induction k generalizing s with
  | zero => cases h; exact hb
  | succ k ih =>
    obtain ⟨u, hstep, hrest⟩ := steps_succ_next h
    obtain ⟨hfirst, hlater⟩ := host_kept_of_run hstep hrest hhost
    exact ih (busy_false_of_step hb hfirst hstep) hlater hrest

/-- A run that takes no input and ends in a call records nothing: the call has been in progress all along. -/
theorem runCalls_of_busy {k : Nat} (ht : t.busy = true) (hhost : t.host = s.host) (h : steps k s = .next t) :
    runCalls k s = [] := by
  induction k generalizing s with
  | zero => rfl
  | succ k ih =>
    obtain ⟨u, hstep, hrest⟩ := steps_succ_next h
    obtain ⟨hfirst, hlater⟩ := host_kept_of_run hstep hrest hhost
    have hu : u.busy = true := by
      rw [← Bool.not_eq_false]
      intro hb
      cases ht.symm.trans (busy_false_of_steps hb hlater hrest)
    rw [runCalls_of_step hstep, callEnded_of_busy hu, ih hlater hrest]
    rfl

/-- A run that takes no input, until a step ends the call, records that call alone. -/
theorem runCalls_of_ending {k base : Nat} {u : State} (hrun : steps k s = .next u) (hhost : u.host = s.host)
    (hr : u.running = true) (hbound : u.bound = some base) (hlast : step u = .next t) (ht : t.busy = false) :
    runCalls (k + 1) s = [t.callRecord base] := by
  rw [runCalls_of_steps hrun, runCalls_of_step hlast, runCalls_of_busy (State.busy_of_running hr) hhost hrun,
    callEnded_of_step hr hbound hlast ht]
  rfl

/-- A recorded call was ended by one of the steps of the run, from a state that meets the invariants where the first
does. -/
theorem exists_step_of_mem_runCalls {k : Nat} (h : s.Inv) (hpayload : s.PayloadInv) (hc : c ∈ runCalls k s) :
    ∃ j u v, j < k ∧ steps j s = .next u ∧ u.Inv ∧ u.PayloadInv ∧ step u = .next v ∧ callEnded u v = some c := by
  induction k generalizing s with
  | zero => cases hc
  | succ k ih =>
    cases hstep : step s with
    | fault | refused => simp [runCalls, hstep] at hc
    | next v =>
      rw [runCalls_of_step hstep, List.mem_append, Option.mem_toList] at hc
      obtain hfirst | hrest := hc
      · exact ⟨0, s, v, Nat.succ_pos k, rfl, h, hpayload, hstep, hfirst⟩
      · obtain ⟨j, u, w, hj, hrun, hended⟩ := ih (Proofs.stepKeepsTheInvariant s v h hstep)
          (Proofs.stepKeepsTheRunningSum s v h hpayload hstep) hrest
        exact ⟨j + 1, u, w, Nat.succ_lt_succ hj, (steps_of_step hstep j).trans hrun, hended⟩

/-- A run that is over takes no `RECV`. -/
theorem State.recvTaken_none_of_runOver (hover : s.runOver = true) : s.recvTaken = none := by
  obtain ⟨-, hquiet⟩ := State.runOver_iff.1 hover
  cases hrecv : s.recvTaken with
  | none => rfl
  | some buf =>
    obtain ⟨inputs, hh | ⟨-, hh⟩⟩ := State.recvTaken_some hrecv
    all_goals
      rw [hh] at hquiet
      cases hquiet _ List.mem_cons_self

/-- A run that is over stays over (R201). -/
theorem runOver_of_steps {k : Nat} (hs : s.holdsReserved = false) (hover : s.runOver = true)
    (hrun : steps k s = .next t) : t.runOver = true := by
  obtain ⟨hb, hquiet⟩ := State.runOver_iff.1 hover
  cases (steps_of_runOver k hs hover).symm.trans hrun
  exact State.runOver_iff.2 ⟨hb, fun x hx => hquiet x (List.mem_of_mem_drop hx)⟩

/-- A run that is over records nothing more (R201). -/
theorem runCalls_of_runOver (k : Nat) (hs : s.holdsReserved = false) (hover : s.runOver = true) :
    runCalls k s = [] := by
  induction k generalizing s with
  | zero => rfl
  | succ k ih =>
    cases hstep : step s with
    | fault | refused => simp only [runCalls, hstep]
    | next t =>
      have hr : s.running = false := State.not_running_of_not_busy (State.runOver_iff.1 hover).1
      have hover' : t.runOver = true := runOver_of_steps (k := 1) hs hover (steps_of_step hstep 0)
      rw [runCalls_of_step hstep, callEnded_of_noRecv hr (State.recvTaken_none_of_runOver hover),
        ih (legal_of_step hstep) hover']
      rfl

/-- A run has an outcome exactly where it is over (R201). -/
theorem runOutcome_eq_some_iff {k : Nat} {o : RunOutcome} :
    runOutcome k s = some o ↔ ∃ t, steps k s = .next t ∧ t.runOver = true ∧
      { calls := runCalls k s, tx := t.tx, st := t.st, eseq := t.eseq, sseq := t.sseq } = o := by
  cases hrun : steps k s with
  | next t => simp [runOutcome, hrun]
  | fault r => simp [runOutcome, hrun]
  | refused r => simp [runOutcome, hrun]

end Sys2Proof.Machine
end

section

namespace Sys2Proof.Proofs
open Sys2Proof.Machine

/-- Settles O57: the further steps change the host's list and memory alone, and record no call. -/
theorem finishedRunKeepsItsOutcome : Obligations.FinishedRunKeepsItsOutcome := by
  intro k j s o hs hout
  obtain ⟨t, hrun, hover, rfl⟩ := runOutcome_eq_some_iff.1 hout
  have ht : t.holdsReserved = false := legal_of_steps hs hrun
  have hmore := steps_of_runOver j ht hover
  refine runOutcome_eq_some_iff.2 ⟨_, (steps_of_steps hrun j).trans hmore, runOver_of_steps ht hover hmore, ?_⟩
  rw [runCalls_of_steps hrun, runCalls_of_runOver j ht hover, List.append_nil]

/-- Settles O58: up to its checksum byte a frame takes no input and the call stays in progress; that byte ends the call
or, on any error, does not. -/
theorem runRecordsAcceptedFramesOnly : Obligations.RunRecordsAcceptedFramesOnly := by
  intro s base seq comp cks d rest hr hw hst hbound hd hrx
  split
  · next hgood =>
    obtain ⟨rfl, rfl, rfl⟩ := hgood
    obtain ⟨t, hrun, -, ht, hres, -, -, -, -, hblock, -⟩ := goodFrameIsDelivered s base d rest hr hw hst hbound hd hrx
    have hframe := steps_frame_before_checksum hr hw hst hbound hd hrx
    obtain ⟨u, hlast, hend⟩ := steps_succ_next ((steps_of_steps hframe 1).symm.trans hrun)
    cases hend
    calc runCalls (131 + 1) s
        _ = [t.callRecord base] := runCalls_of_ending hframe rfl hr hbound hlast ht
        _ = _ := by simp only [State.callRecord, hres, State.bufferContents_of_readBlock hblock]
  · next hbad =>
    obtain ⟨t, hrun, -, ht, -, -, -, -, -, hhost, -⟩ :=
      badFrameIsRejected s base seq comp cks d rest hr hw hst hbound hd hbad hrx
    exact runCalls_of_busy ht hhost hrun

/-- Settles O59: step by step the two counts agree; the `RECV` of `Idle` is taken at once and fails. -/
theorem runRecordsMatchTheSteps : Obligations.RunRecordsMatchTheSteps := by
  constructor
  · intro k
    induction k with
    | zero => exact fun _ _ => rfl
    | succ k ih =>
      intro s h
      cases hstep : step s with
      | fault | refused => simp [runCalls, acceptedPackets, hstep]
      | next t =>
        rw [runCalls_of_step hstep, acceptedPackets_of_step hstep, List.filterMap_append, List.count_append,
          count_packet_of_callEnded h hstep, ih t (stepKeepsTheInvariant s t h hstep)]
  · intro s buf inputs hi hb hst hhost
    have hfetch := State.fetch_of_cmd (State.not_running_of_not_busy hb) hhost
    have hlegal : s.holdsReserved = false := State.holdsReserved_of_ne (by simp [hst])
    have hstep : step s = .next { s with host := inputs, res := some .stateError } :=
      (step_of_fetch_event hlegal hfetch).trans (recvInIdleGivesStateError _ buf hi hb hst)
    have hrecv : s.recvTaken = some buf := by
      simp [State.recvTaken, hfetch, (commandCodesSelectCommands buf).2.2.2]
    rw [runCalls_of_step hstep]
    simp [callEnded, hb, hrecv, runCalls, State.callRecord, State.bufferContents]

/-- Settles O60: the step that ended the recorded call gave `Packet`, so it took the checksum of the bytes in the bound
buffer, in `AwaitChecksum`. -/
theorem everyPacketRecordHoldsAPayload : Obligations.EveryPacketRecordHoldsAPayload := by
  intro k s c h hpayload hc hres
  obtain ⟨j, u, v, hj, hrun, hu, hup, hstep, hended⟩ := exists_step_of_mem_runCalls h hpayload hc
  obtain ⟨hr, hv, hbound, hrecord⟩ | ⟨-, herror⟩ := callEnded_cases hstep hended
  · have hpacket : v.res = some .packet := (congrArg CallRecord.result hrecord).symm.trans hres
    obtain ⟨base, d, hbound', hd, hblock, hpolled, herr⟩ :=
      packetResultMeansAChecksummedPayload u v hu hup hr hstep hpacket
    cases hbound.symm.trans hbound'
    have hst : u.st = .awaitChecksum := by
      obtain ⟨hother, -⟩ | ⟨-, ⟨-, hst, -⟩ | ⟨hother, -⟩ | ⟨hother, -⟩⟩ := callEndings u v hu hr hstep hv
      case inr.inl => exact hst
      all_goals cases hother.symm.trans hpacket
    have hcontents : c.contents = d.map some :=
      (congrArg CallRecord.contents hrecord).trans (State.bufferContents_of_readBlock hblock)
    exact ⟨d, j, u, hd, hcontents, hj, hrun, hst, herr, hbound, hpolled⟩
  · cases herror.symm.trans hres

end Sys2Proof.Proofs
end

section
/-! The working registers (70_reset_and_hazards.md R192): where their values can still be read, and that two states which
agree there have the same future but for values that cannot. -/

namespace Sys2Proof.Machine

/-- Values for the registers no port shows: `err`, `csum`, `len`, `nodata` and `tr_seen` (R39, R192). -/
structure Working where
  err : Bool
  csum : Byte
  len : Byte
  nodata : Nat
  trSeen : Bool

/-- The state with other values in its working registers. -/
def State.withWorking (s : State) (w : Working) : State :=
  { s with err := w.err, csum := w.csum, len := w.len, nodata := w.nodata, trSeen := w.trSeen }

/-- The values agree with the state's own in every working register that can be read before it is written: `nodata` and
`tr_seen` in a call (R121), `err` within a frame (R126, R127, R130), `csum` and `len` from payload byte 0 to the checksum
(R129, R130). -/
structure State.Agrees (s : State) (w : Working) : Prop where
  timeout : s.busy = true → w.nodata = s.nodata ∧ w.trSeen = s.trSeen
  header : s.st ≠ .idle → s.st ≠ .awaitStart → w.err = s.err
  payload : s.st = .accumulatingData ∨ s.st = .awaitChecksum → w.csum = s.csum ∧ w.len = s.len

/-- What R192 rests on: an initialised block is in `Idle` or `AwaitStart` between calls (R37), and a call leaves
`AwaitStart` by a transition. -/
structure State.CallForm (s : State) : Prop where
  initDone : s.initDone = true
  between : s.busy = false → s.st = .idle ∨ s.st = .awaitStart
  armed : s.busy = true → s.trSeen = false → s.st = .awaitStart

/-- Two results of a step are the same but for values of the working registers that cannot be read. -/
inductive SameButWorking : StepResult → StepResult → Prop where
  | next {t : State} {w : Working} (h : t.Agrees w) : SameButWorking (.next t) (.next (t.withWorking w))
  | fault (r : Fault) : SameButWorking (.fault r) (.fault r)
  | refused (r : Refusal) : SameButWorking (.refused r) (.refused r)

variable {s t : State} {w : Working} {i : Instr}

/-- A result is the same as itself. -/
theorem SameButWorking.refl (o : StepResult) : SameButWorking o o := by
  cases o with
  | next t =>
    exact .next (w := ⟨t.err, t.csum, t.len, t.nodata, t.trSeen⟩)
      ⟨fun _ => ⟨rfl, rfl⟩, fun _ _ => rfl, fun _ => ⟨rfl, rfl⟩⟩
  | fault r => exact .fault r
  | refused r => exact .refused r

/-- Results that are the same show the same: no port, stream or byte of memory is a working register (R39). -/
theorem SameButWorking.hideWorking_eq {o o' : StepResult} (h : SameButWorking o o') :
    andThen o' State.hideWorking = andThen o State.hideWorking := by
  cases h <;> rfl

/-- Two instructions with next states that differ in unread working registers alone. -/
theorem SameButWorking.of_next {o o' : StepResult} (w : Working) (h : o = .next t) (h' : o' = .next (t.withWorking w))
    (ha : t.Agrees w) : SameButWorking o o' := by
  rw [h, h']
  exact .next ha

/-- Between calls no working register is read before it is written (R192). -/
theorem State.Agrees.of_between (w : Working) (hb : s.busy = false) (hst : s.st = .idle ∨ s.st = .awaitStart) :
    s.Agrees w where
  timeout hbusy := by simp [hb] at hbusy
  header hidle hwait := absurd hst (not_or.2 ⟨hidle, hwait⟩)
  payload hst' := by obtain h | h := hst <;> simp [h] at hst'

/-- Agreement says nothing of memory, the streams and the host's list. -/
theorem State.Agrees.of_world (h : s.Agrees w) (mem : List Host.Cell) (rx : List Answer) (host : List HostInput)
    (draws : Nat) : State.Agrees { s with mem := mem, rx := rx, host := host, draws := draws } w :=
  ⟨h.timeout, h.header, h.payload⟩

/-- From payload byte 0 to the checksum every working register can be read, so values that agree are the state's own. -/
theorem State.Agrees.withWorking_eq (h : s.Agrees w) (hb : s.busy = true)
    (hst : s.st = .accumulatingData ∨ s.st = .awaitChecksum) : s.withWorking w = s := by
  obtain ⟨hnodata, htr⟩ := h.timeout hb
  obtain ⟨hcsum, hlen⟩ := h.payload hst
  have herr : w.err = s.err := by obtain hst | hst := hst <;> exact h.header (by simp [hst]) (by simp [hst])
  simp only [State.withWorking, hnodata, htr, hcsum, hlen, herr]

/-- A poll does not look at the working registers. -/
theorem State.rxPoll_withWorking (s : State) (w : Working) :
    (s.withWorking w).rxPoll = (s.rxPoll.1, s.rxPoll.2.withWorking w) := by
  cases h : s.rx with
  | nil => rw [State.rxPoll_nil h, State.rxPoll_nil (s := s.withWorking w) h]; rfl
  | cons a rest => rw [State.rxPoll_cons h, State.rxPoll_cons (s := s.withWorking w) h]; rfl

/-- A transition that moves a call out of `AwaitStart`, or within a frame, leaves `tr_seen` set (R120). -/
theorem State.CallForm.trSeen_of_move (h : s.CallForm) (hb : s.busy = true) {p : PState} (hp : p ≠ .awaitStart) :
    (s.trSeen || decide (p ≠ s.st)) = true := by
  cases htr : s.trSeen with
  | true => rfl
  | false => simp [h.armed hb htr, hp]

/-- Within a call the form is kept where a transition has been noted. -/
theorem State.CallForm.of_trSeen (h : s.CallForm) (hb : s.busy = true) (hi : t.initDone = s.initDone)
    (hbusy : t.busy = s.busy) (htr : t.trSeen = true) : t.CallForm where
  initDone := hi.trans h.initDone
  between ht := nomatch (hbusy.trans hb).symm.trans ht
  armed _ hnot := nomatch htr.symm.trans hnot

/-- The form says nothing of memory, the streams and the host's list. -/
theorem State.CallForm.of_world (h : s.CallForm) (mem : List Host.Cell) (rx : List Answer) (host : List HostInput)
    (draws : Nat) : State.CallForm { s with mem := mem, rx := rx, host := host, draws := draws } :=
  ⟨h.initDone, h.between, h.armed⟩

/-- An instruction keeps the form, a receive event in a call. -/
theorem ExecEffect.keeps_callForm (e : ExecEffect s i t) (h : s.CallForm)
    (hpoll : Laws.isCommand i = false → s.busy = true) : t.CallForm := by
  cases e with
  | init => exact ⟨rfl, fun _ => .inl rfl, nofun⟩
  | start | ack => exact ⟨h.initDone, fun _ => .inr rfl, fun _ _ => rfl⟩
  | recvCall _ hb hst => exact ⟨h.initDone, nofun, fun _ _ => (h.between hb).resolve_left hst⟩
  | noneEnds htr => exact ⟨h.initDone, fun _ => .inr (h.armed (hpoll rfl) htr), nofun⟩
  | recvIdle | noneCounts | ignore | dataNext => exact ⟨h.initDone, h.between, h.armed⟩
  | soh => exact h.of_trSeen (hpoll rfl) rfl rfl rfl
  | seq | comp | d0 | dataLast => exact h.of_trSeen (hpoll rfl) rfl rfl (h.trSeen_of_move (hpoll rfl) nofun)
  | eot | cksAccept => exact ⟨h.initDone, fun _ => .inr rfl, nofun⟩
  | cksReject => exact ⟨h.initDone, fun _ => .inr rfl, fun _ _ => rfl⟩

/-- Every step keeps the form. -/
theorem callForm_of_step (h : s.CallForm) (hstep : step s = .next t) : t.CallForm := by
  obtain ⟨-, hpoll | hreset | hcmd | hwrite | hwait⟩ := step_cases hstep
  · obtain ⟨inputs, hr, -, hx⟩ := hpoll
    obtain ⟨rx, draws, e⟩ := poll_effect hx
    exact e.keeps_callForm (h.of_world s.mem rx inputs draws) fun _ => State.busy_of_running hr
  · obtain ⟨inputs, -, rfl⟩ := hreset
    exact ⟨rfl, fun _ => .inl rfl, nofun⟩
  · obtain ⟨code, buf, inputs, -, hx⟩ := hcmd
    have hcommand := isCommand_decode_cmd code buf
    exact (exec_effect hx).keeps_callForm (h.of_world s.mem s.rx inputs s.draws) fun hpoll =>
      nomatch hcommand.symm.trans hpoll
  · obtain ⟨addr, v, inputs, -, -, rfl⟩ := hwrite
    exact h.of_world (Memory.write addr v s.mem) s.rx inputs s.draws
  · obtain ⟨inputs, -, -, rfl⟩ := hwait
    exact h.of_world s.mem s.rx inputs s.draws

/-- R192: a command reads no working register. -/
theorem exec_command_sameButWorking (hc : Laws.isCommand i = true) (h : s.CallForm) (w : Working) :
    SameButWorking (exec i s) (exec i (s.withWorking w)) := by
  have hi : s.initDone = true := h.initDone
  cases hb : s.busy with
  | true =>
    have hr : s.running = true := by simp [State.running, hi, hb]
    rw [exec_command_of_running hc hr, exec_command_of_running (s := s.withWorking w) hc hr]
    exact .fault .cmdBusy
  | false =>
    have hr : s.running = false := State.not_running_of_not_busy hb
    cases i with
    | init =>
      exact .of_next w (exec_init_of_not_running hr) (exec_init_of_not_running hr) (.of_between w rfl (.inl rfl))
    | start =>
      exact .of_next w (Proofs.startSendsNakAndAwaits s hi hb) (Proofs.startSendsNakAndAwaits _ hi hb)
        (.of_between w hb (.inr rfl))
    | ack =>
      exact .of_next w (Proofs.ackSendsAckAndAwaits s hi hb) (Proofs.ackSendsAckAndAwaits _ hi hb)
        (.of_between w hb (.inr rfl))
    | recv buf =>
      by_cases hst : s.st = .idle
      · exact .of_next w (Proofs.recvInIdleGivesStateError s buf hi hb hst)
          (Proofs.recvInIdleGivesStateError _ buf hi hb hst) (.of_between w hb (.inl hst))
      · have hwait : s.st = .awaitStart := (h.between hb).resolve_left hst
        exact .of_next { w with nodata := 0, trSeen := false } (Proofs.recvBeginsCall s buf hi hb hst)
          (Proofs.recvBeginsCall _ buf hi hb hst)
          ⟨fun _ => ⟨rfl, rfl⟩, fun _ hne => absurd hwait hne, fun hst' => by simp [hwait] at hst'⟩
    | _ => cases hc

/-- R121: the empty poll reads `nodata` and `tr_seen`, in a call. -/
theorem exec_rxNone_sameButWorking (ha : s.Agrees w) (hform : s.CallForm) (hb : s.busy = true) :
    SameButWorking (exec .rxNone s) (exec .rxNone (s.withWorking w)) := by
  obtain ⟨err, csum, len, nodata, trSeen⟩ := w
  obtain ⟨rfl, rfl⟩ := ha.timeout hb
  have hs := Proofs.emptyPollCountsAndMayEndTheCall s
  have hs' := Proofs.emptyPollCountsAndMayEndTheCall (s.withWorking ⟨err, csum, len, s.nodata, s.trSeen⟩)
  by_cases hend : s.trSeen = false ∧ Config.nodataThreshold < min (s.nodata + 1) Config.nodataMax
  · exact .of_next ⟨err, csum, len, min (s.nodata + 1) Config.nodataMax, s.trSeen⟩
      (hs.trans (congrArg _ (if_pos hend))) (hs'.trans (congrArg _ (if_pos hend)))
      (.of_between _ rfl (.inr (hform.armed hb hend.1)))
  · exact .of_next ⟨err, csum, len, min (s.nodata + 1) Config.nodataMax, s.trSeen⟩
      (hs.trans (congrArg _ (if_neg hend))) (hs'.trans (congrArg _ (if_neg hend)))
      ⟨fun _ => ⟨rfl, rfl⟩, ha.header, ha.payload⟩

/-- What a poll that moves keeps of `nodata` and `tr_seen` agrees where both agreed (R120). -/
theorem State.Agrees.timeout_of_move (ha : s.Agrees w) (p : PState) (hb : s.busy = true) :
    w.nodata = s.nodata ∧ (w.trSeen || decide (p ≠ s.st)) = (s.trSeen || decide (p ≠ s.st)) := by
  obtain ⟨hnodata, htr⟩ := ha.timeout hb
  exact ⟨hnodata, by rw [htr]⟩

/-- R123, R124, R125: a byte polled in `AwaitStart` reads no working register. -/
theorem exec_startByte_sameButWorking (ha : s.Agrees w) (b : Byte) :
    SameButWorking (exec (decodeStartByte b) s) (exec (decodeStartByte b) (s.withWorking w)) := by
  obtain ⟨-, hd⟩ | ⟨-, hd⟩ | ⟨-, -, hd⟩ := decodeStartByte_cases b <;> rw [hd]
  · exact .of_next { w with err := false, trSeen := true } rfl rfl
      ⟨fun hb => ⟨(ha.timeout hb).1, rfl⟩, fun _ _ => rfl, nofun⟩
  · exact .of_next { w with trSeen := w.trSeen || decide (eotNextState ≠ s.st) } rfl rfl
      (.of_between _ rfl (.inr rfl))
  · exact .of_next w rfl rfl ha

/-- R126, R127: a header check reads `err`, in a frame, before it moves to another header state. -/
theorem noteCheck_sameButWorking (ha : s.Agrees w) (herr : w.err = s.err) (ok : Bool) {p : PState}
    (hdata : p ≠ .accumulatingData) (hcks : p ≠ .awaitChecksum) :
    SameButWorking (.next ((s.noteCheck ok).moveTo p)) (.next (((s.withWorking w).noteCheck ok).moveTo p)) :=
  .of_next { w with err := w.err || !ok, trSeen := w.trSeen || decide (p ≠ s.st) } rfl rfl
    ⟨ha.timeout_of_move p, fun _ _ => congrArg (· || !ok) herr, fun hp => absurd hp (not_or.2 ⟨hdata, hcks⟩)⟩

/-- R128: payload byte 0 writes `csum` and `len`, and keeps `err`. -/
theorem exec_rxD0_sameButWorking (ha : s.Agrees w) (herr : w.err = s.err) (b : Byte) :
    SameButWorking (exec (.rxD0 b) s) (exec (.rxD0 b) (s.withWorking w)) := by
  cases hbound : s.bound with
  | none =>
    have hfault : ∀ u : State, u.bound = none → exec (.rxD0 b) u = .fault .unboundBuffer := by
      intro u hu
      simp [exec, execRxD0, State.bufWrite, payloadLen, hu, andThen]
    rw [hfault s hbound, hfault (s.withWorking w) hbound]
    exact .fault .unboundBuffer
  | some base =>
    exact .of_next { w with csum := b, len := 0x01#8, trSeen := w.trSeen || decide (.accumulatingData ≠ s.st) }
      (execRxD0_of_bound b hbound) (execRxD0_of_bound (s := s.withWorking w) b hbound)
      ⟨ha.timeout_of_move .accumulatingData, fun _ _ => herr, fun _ => ⟨rfl, rfl⟩⟩

/-- R192: in a call the instruction that any answer selects reads only working registers that agree. -/
theorem exec_poll_sameButWorking (ha : s.Agrees w) (h : s.CallForm) (hb : s.busy = true) (a : Answer) :
    SameButWorking (exec (decodePoll s.st a) s) (exec (decodePoll s.st a) (s.withWorking w)) := by
  have hpayload : s.st = .accumulatingData ∨ s.st = .awaitChecksum →
      SameButWorking (exec (decodePoll s.st a) s) (exec (decodePoll s.st a) (s.withWorking w)) := by
    intro hst
    rw [ha.withWorking_eq hb hst]
    exact .refl _
  cases hst : s.st
  case idle | reserved => exact .fault .illegal
  case accumulatingData => exact hst ▸ hpayload (.inl hst)
  case awaitChecksum => exact hst ▸ hpayload (.inr hst)
  all_goals
    cases a with
    | none => exact exec_rxNone_sameButWorking ha h hb
    | some b => ?_
  case awaitStart => exact exec_startByte_sameButWorking ha b
  all_goals have herr : w.err = s.err := ha.header (by simp [hst]) (by simp [hst])
  case sohSeen => exact noteCheck_sameButWorking ha herr (s.seqOK b) nofun nofun
  case seqSeen => exact noteCheck_sameButWorking ha herr (s.compOK b) nofun nofun
  case compSeqSeen => exact exec_rxD0_sameButWorking ha herr b

/-- A poll and the host's input taken with it, in two states that agree. -/
theorem poll_sameButWorking (ha : s.Agrees w) (h : s.CallForm) (hr : s.running = true) (inputs : List HostInput) :
    SameButWorking (exec (decode (.poll s.st s.rxPoll.1)) { s.rxPoll.2 with host := inputs })
      (exec (decode (.poll s.st s.rxPoll.1)) (State.withWorking { s.rxPoll.2 with host := inputs } w)) := by
  obtain ⟨rx, draws, hp⟩ := s.rxPoll_state
  rw [hp]
  exact exec_poll_sameButWorking (ha.of_world s.mem rx inputs draws) (h.of_world s.mem rx inputs draws)
    (State.busy_of_running hr) s.rxPoll.1

/-- R192: a step from two states that agree in the working registers that can be read gives two such states, or stops
for the same reason. -/
theorem step_sameButWorking (ha : s.Agrees w) (h : s.CallForm) :
    SameButWorking (step s) (step (s.withWorking w)) := by
  cases hs : s.holdsReserved with
  | true =>
    have hfault : ∀ u : State, u.holdsReserved = true → step u = .fault .illegal := fun u hu => by simp [step, hu]
    rw [hfault s hs, hfault (s.withWorking w) hs]
    exact .fault .illegal
  | false =>
    have hs' : (s.withWorking w).holdsReserved = false := hs
    obtain ⟨hr, inputs, hh, -⟩ | ⟨hr, hw, -⟩ | ⟨inputs, hh, -⟩ | ⟨code, buf, inputs, hh, -⟩ |
      ⟨hr, code, buf, inputs, hh, -⟩ | ⟨hr, addr, v, inputs, hh, -⟩ | ⟨hr, inputs, hh, -⟩ | ⟨hr, hh, -⟩ := s.fetch_cases
    · rw [step_of_pass hs hr hh, step_of_pass hs' hr hh, State.rxPoll_withWorking]
      exact poll_sameButWorking ha h hr inputs
    · rw [step_of_hostWaits hs hr hw, step_of_hostWaits hs' hr hw, State.rxPoll_withWorking]
      exact poll_sameButWorking ha h hr s.rxPoll.2.host
    · exact .of_next w (step_of_rst hs hh) (step_of_rst hs' hh) (.of_between w rfl (.inl rfl))
    · rw [step_of_fetch_event hs (State.fetch_of_cmdNoWait hh), step_of_fetch_event hs' (State.fetch_of_cmdNoWait hh)]
      exact exec_command_sameButWorking (isCommand_decode_cmd code buf) (h.of_world s.mem s.rx inputs s.draws) w
    · rw [step_of_fetch_event hs (State.fetch_of_cmd hr hh), step_of_fetch_event hs' (State.fetch_of_cmd hr hh)]
      exact exec_command_sameButWorking (isCommand_decode_cmd code buf) (h.of_world s.mem s.rx inputs s.draws) w
    · exact .of_next w (step_of_quietInput hs hr hh rfl) (step_of_quietInput hs' hr hh rfl)
        (ha.of_world (Memory.write addr v s.mem) s.rx inputs s.draws)
    · exact .of_next w (step_of_quietInput hs hr hh rfl) (step_of_quietInput hs' hr hh rfl)
        (ha.of_world s.mem s.rx inputs s.draws)
    · exact .of_next w (step_of_noInput hs hr hh) (step_of_noInput hs' hr hh) ha

/-- R192 over any number of steps. -/
theorem steps_sameButWorking (k : Nat) (ha : s.Agrees w) (h : s.CallForm) :
    SameButWorking (steps k s) (steps k (s.withWorking w)) := by
  induction k generalizing s w with
  | zero => exact .next ha
  | succ k ih =>
    have hsame := step_sameButWorking ha h
    generalize hstep : step s = o, hstep' : step (s.withWorking w) = o' at hsame
    cases hsame with
    | next hat =>
      rw [steps_of_step hstep, steps_of_step hstep']
      exact ih hat (callForm_of_step h hstep)
    | fault r =>
      simp only [steps, hstep, hstep']
      exact .fault r
    | refused r =>
      simp only [steps, hstep, hstep']
      exact .refused r

end Sys2Proof.Machine
end

section

namespace Sys2Proof.Proofs
open Sys2Proof.Machine

/-- Settles O56: between commands any values agree where they can be read, and what stays the same over the steps is all
that is shown. -/
theorem workingRegistersAreNeverObserved : Obligations.WorkingRegistersAreNeverObserved := by
  intro k s err trSeen csum len nodata hi hb hst
  have hform : s.CallForm := ⟨hi, fun _ => hst, fun hbusy => nomatch hb.symm.trans hbusy⟩
  have hagrees : s.Agrees ⟨err, csum, len, nodata, trSeen⟩ := .of_between _ hb hst
  exact (steps_sameButWorking k hagrees hform).hideWorking_eq

end Sys2Proof.Proofs
end
